-- ==== Sys2Proof/Word.lean ====
section
/-! DEFINITION. The word types of FFI2C-SEQ (spec/00_scope.md R11): a byte is 8 bits, a register 32 bits, every
value unsigned. -/

namespace Sys2Proof

/-- A byte of TEXT, TXBUF, STAGE, FONT or of the wire. -/
abbrev Byte := BitVec 8

/-- A host register or a command word. -/
abbrev Word := BitVec 32

end Sys2Proof
end

