-- ==== Sys2Proof/Config.lean ====
section
/-! DEFINITION. What an implementation fixes (spec/00_scope.md R6 to R9) and the free values.

The OPEN parameters of R7 to R9 are arguments of the spec's model. The machine's step takes a state and nothing
else, so they travel beside the state as plain data (Machine/State.lean, field params), no step writes them, and a
statement about every state is a statement about every choice of them. -/

namespace Sys2Proof

/-- One piece of a bring-up transfer (spec/41_discovery_recovery.md R214, R215). `nibble` and `command` are built with
the backlight flag of the moment the step runs (92_eei_decisions.md D56). -/
inductive BringItem where
  /-- a byte sent as it is -/
  | raw (b : Byte)
  /-- N(n): the triple of nibble n with RS = 0 -/
  | nibble (n : BitVec 4)
  /-- B(v): the six bytes of command v with RS = 0 -/
  | command (v : Byte)
deriving DecidableEq, Repr

/-- One step of a bring-up list (R198): a synchronous transfer or a delay in ticks. -/
inductive BringStep where
  | tx (items : List BringItem)
  | delay (ticks : Nat)
deriving DecidableEq, Repr

/-- LCD_BRINGUP, the default of R214, with delays in ticks of 1 microsecond. -/
def Config.lcdBringUp : List BringStep :=
  [ .tx [.nibble 0x3], .delay 5000,
    .tx [.nibble 0x3], .delay 1000,
    .tx [.nibble 0x3], .delay 1000,
    .tx [.nibble 0x2], .delay 1000,
    .tx [.command 0x28, .command 0x08, .command 0x01], .delay 2000,
    .tx [.command 0x06, .command 0x0C] ]

/-- OLED_BRINGUP, the default of R215: one transfer of 23 bytes. -/
def Config.oledBringUp : List BringStep :=
  [ .tx [ .raw 0x00, .raw 0xAE, .raw 0xD5, .raw 0x80, .raw 0xA8, .raw 0x1F, .raw 0xD3, .raw 0x00,
          .raw 0x40, .raw 0x8D, .raw 0x14, .raw 0xA1, .raw 0xC8, .raw 0xDA, .raw 0x02, .raw 0x81,
          .raw 0x8F, .raw 0xD9, .raw 0xF1, .raw 0xDB, .raw 0x40, .raw 0xA4, .raw 0xA6 ] ]

/-- The OPEN parameters (R7, R8, R9). Times are in ticks. The default of each field is the spec's. -/
structure Params where
  /-- TICK_HZ -/
  tickHz : Nat := 1000000
  /-- T_SETTLE -/
  tSettle : Nat := 10
  /-- T_BB -/
  tBb : Nat := 10
  /-- T_WAIT, 10 ms (R6) -/
  tWait : Nat := 10000
  /-- T_WDT -/
  tWdt : Nat := 200000
  /-- RECOVER_TRIES -/
  recoverTries : Nat := 1
  aLo : BitVec 7 := 0x20
  aHi : BitVec 7 := 0x27
  bLo : BitVec 7 := 0x38
  bHi : BitVec 7 := 0x3F
  /-- OLED_ADDR -/
  oledAddr : BitVec 7 := 0x3C
  /-- GLYPH_W -/
  glyphW : Nat := 8
  /-- LCD_ROW_CMD0 -/
  lcdRowCmd0 : Byte := 0x80
  /-- LCD_ROW_CMD1 -/
  lcdRowCmd1 : Byte := 0xC0
  lcdBringUp : List BringStep := Config.lcdBringUp
  oledBringUp : List BringStep := Config.oledBringUp
deriving DecidableEq, Repr

/-- The spec's default parameters. -/
def Params.default : Params := {}

/-- A step LINK may take (spec/43_engine.md R273 to R278). Whether the slave acknowledges and which error shows are the
environment's choices, so they are arguments. -/
inductive LinkMove where
  | start
  | address (ack : Bool)
  | byte (ack : Bool)
  | stop
  | error (e : BitVec 4)
deriving DecidableEq, Repr, Inhabited

/-- Which agent moves (R10): HOST, SEQ, DMA, TICK (with WDT), LINK, BUS, or the power-on reset input. -/
inductive Turn where
  | host
  | seq
  | dma
  | tick
  | link (m : LinkMove)
  | bus (scl sda : Bool)
  | powerOn
deriving DecidableEq, Repr, Inhabited

/-- The width of a host access (spec/20_memory.md R73). -/
inductive AccessWidth where
  | byte
  | half
  | word
deriving DecidableEq, Repr

/-- One access HOST makes: RegRead, RegWrite, or a POLL, which reads until (result & mask) = value
(spec/30_encoding.md R121). The offset is relative to the window's base, which is the platform's (R80). -/
inductive HostOp where
  | read (width : AccessWidth) (off : Nat)
  | write (width : AccessWidth) (off : Nat) (v : Word)
  | poll (off : Nat) (mask value : Word)
deriving DecidableEq, Repr

/-- FREE VALUE (log entry 3). FONT[g][k], the external read-only glyph table (R9, R79). No rule gives its bytes. -/
opaque Config.font : Nat → Nat → Byte

/-- FREE VALUE (log entry 1). The n-th turn the model takes when its list of turns is empty: the order of the agents is
free (spec/70_reset_and_hazards.md R404). -/
opaque Config.freeTurn : Nat → Turn

/-- ROWS (R6). -/
def Config.rows : Nat := 2
/-- COLS (R6). -/
def Config.cols : Nat := 16
/-- TXBUF_SIZE (R6). -/
def Config.txbufSize : Nat := 256
/-- The 32 cells of TEXT (spec/20_memory.md R70). -/
def Config.textSize : Nat := 32
/-- The 16 staging bytes (R70). -/
def Config.stageSize : Nat := 16
/-- GLYPH_FIRST (R6). -/
def Config.glyphFirst : Nat := 0x20
/-- GLYPH_LAST (R6). -/
def Config.glyphLast : Nat := 0x7E
/-- FALLBACK_CHAR, the full stop (R6). -/
def Config.fallbackChar : Nat := 0x2E
/-- The blank character. -/
def Config.blank : Byte := 0x20

end Sys2Proof
end

