-- ==== Sys2Proof/Syntax.lean ====
section
/-! DEFINITION. The six host commands of spec/opcode_table.json (spec/30_encoding.md R101), with the operand fields
R103 and R105 give them. A field has exactly the width the encoding has, so every term is encodable. -/

namespace Sys2Proof

/-- A host command: one 32-bit word written to CMD (R100). -/
inductive Instr where
  /-- INIT (R102, R141). -/
  | init
  /-- WRITE ROW, COL, MINW, LEN (R103, R142). -/
  | write (row : BitVec 1) (col : BitVec 5) (minw : BitVec 8) (len : BitVec 5)
  /-- CLEAR (R104, R144). -/
  | clear
  /-- BACKLIGHT ON (R105, R145). -/
  | backlight (on : BitVec 1)
  /-- SYNC (R106, R146). -/
  | sync
  /-- FAULT_INJECT (R107, R149). -/
  | faultInject
deriving DecidableEq, Repr

end Sys2Proof
end

