-- ==== Sys2Proof/WellFormed.lean ====
section
/-! DEFINITION. What is well-formed. A command's fields have the exact widths of R103 and R105 in their types, so every
Instr is well-formed; which WORDS are well-formed is Decode.lean's (R108). The OPEN parameters carry constraints
(spec/00_scope.md R7, R8, R9), checked here one by one. -/

namespace Sys2Proof

/-- Is `a` in RANGE_A or RANGE_B (R8)? -/
def Params.inRanges (p : Params) (a : BitVec 7) : Bool :=
  (decide (p.aLo ≤ a) && decide (a ≤ p.aHi)) || (decide (p.bLo ≤ a) && decide (a ≤ p.bHi))

/-- Every range is ordered and leaves 0 out, and OLED_ADDR lies in one of them (R8). -/
def Params.addressesOk (p : Params) : Bool :=
  decide (0 < p.aLo) && decide (p.aLo ≤ p.aHi) && decide (0 < p.bLo) && decide (p.bLo ≤ p.bHi)
    && p.inRanges p.oledAddr

/-- RECOVER_TRIES is at least 1 and T_WAIT is 10 ms (R6, R7). -/
def Params.timesOk (p : Params) : Bool :=
  decide (1 ≤ p.recoverTries) && decide (p.tWait * 100 = p.tickHz)

/-- T_WDT exceeds 23.2 ms (R7, R388). A smaller bound is defined behaviour (93 U18), so no meaning asks for this. -/
def Params.watchdogOk (p : Params) : Bool :=
  decide (232 * p.tickHz < 10000 * p.tWdt)

/-- GLYPH_W is 1..8 (R9). -/
def Params.glyphOk (p : Params) : Bool :=
  decide (1 ≤ p.glyphW) && decide (p.glyphW ≤ 8)

/-- The constraints of R7, R8 and R9 together. -/
def Params.wf (p : Params) : Bool :=
  p.addressesOk && p.timesOk && p.watchdogOk && p.glyphOk

end Sys2Proof
end

