-- ==== Sys2Proof/Decode.lean ====
section
/-! DEFINITION. Decoding and encoding of command words (spec/30_encoding.md R100 to R109). `decode` is total on 32-bit
words and rejects by name; `encode` is written from the same table. Rejecting a word is defined behaviour of the block
(R108): Machine/Ops.lean gives its one effect, CMD_ERR <- 1. -/

namespace Sys2Proof

/-- Why a word is malformed (R108). -/
inductive DecodeReject where
  /-- OP is 0x0 or 0x7 to 0xF -/
  | reservedOp
  /-- a reserved bit of the command is 1 -/
  | reservedBits
deriving DecidableEq, Repr

/-- One row of the opcode table: the mask and the match of R102 to R107. -/
structure OpRow where
  mask : Word
  pat : Word
deriving DecidableEq, Repr

/-- OP = word[31:28] (R100). -/
def opField (w : Word) : BitVec 4 := w.extractLsb' 28 4

/-- The row of an assigned opcode (R101 to R107); none for a reserved one. -/
def opRow (op : BitVec 4) : Option OpRow :=
  if op = 0x1 then some { mask := 0xFFFFFFFF, pat := 0x10000000 }
  else if op = 0x2 then some { mask := 0xFEE000E0, pat := 0x20000000 }
  else if op = 0x3 then some { mask := 0xFFFFFFFF, pat := 0x30000000 }
  else if op = 0x4 then some { mask := 0xFFFFFFFE, pat := 0x40000000 }
  else if op = 0x5 then some { mask := 0xFFFFFFFF, pat := 0x50000000 }
  else if op = 0x6 then some { mask := 0xFFFFFFFF, pat := 0x60000000 }
  else none

/-- ROW = word[24] (R109). -/
def rowField (w : Word) : BitVec 1 := w.extractLsb' 24 1
/-- COL = word[20:16] (R109). -/
def colField (w : Word) : BitVec 5 := w.extractLsb' 16 5
/-- MINW = word[15:8] (R109). -/
def minwField (w : Word) : BitVec 8 := w.extractLsb' 8 8
/-- LEN = word[4:0] (R109). -/
def lenField (w : Word) : BitVec 5 := w.extractLsb' 0 5
/-- ON = word[0] (R109). -/
def onField (w : Word) : BitVec 1 := w.extractLsb' 0 1

/-- The command an assigned opcode selects, with its operands (R101, R109); none for a reserved opcode. -/
def commandOf (op : BitVec 4) (w : Word) : Option Instr :=
  if op = 0x1 then some .init
  else if op = 0x2 then some (.write (rowField w) (colField w) (minwField w) (lenField w))
  else if op = 0x3 then some .clear
  else if op = 0x4 then some (.backlight (onField w))
  else if op = 0x5 then some .sync
  else if op = 0x6 then some .faultInject
  else none

/-- Decode(word) of R109. -/
def decode (w : Word) : Except DecodeReject Instr :=
  match opRow (opField w), commandOf (opField w) w with
  | some r, some i => if w &&& r.mask = r.pat then .ok i else .error .reservedBits
  | _, _ => .error .reservedOp

/-- The word of a command (R102 to R107, and R120 for the operands' places). -/
def encode (i : Instr) : Word :=
  match i with
  | .init => 0x10000000
  | .write row col minw len =>
      0x20000000 ||| (row.setWidth 32 <<< 24) ||| (col.setWidth 32 <<< 16)
        ||| (minw.setWidth 32 <<< 8) ||| len.setWidth 32
  | .clear => 0x30000000
  | .backlight on => 0x40000000 ||| on.setWidth 32
  | .sync => 0x50000000
  | .faultInject => 0x60000000

/-- The instruction the decoder reads from a table word of `nbits` bits, every bit above them 0. -/
def decodeTableWord (nbits w : Nat) : Option Instr :=
  match decode (BitVec.ofNat 32 (w % 2 ^ nbits)) with
  | .ok i => some i
  | .error _ => none

theorem decode_init : decode 0x10000000 = .ok .init := by decide
theorem decode_write : decode 0x211F120B = .ok (.write 1 31 0x12 11) := by decide
theorem decode_clear : decode 0x30000000 = .ok .clear := by decide
theorem decode_backlight : decode 0x40000001 = .ok (.backlight 1) := by decide
theorem decode_sync : decode 0x50000000 = .ok .sync := by decide
theorem decode_faultInject : decode 0x60000000 = .ok .faultInject := by decide

end Sys2Proof
end

