-- ==== Sys2Proof/Machine/State.lean ====
section
/-! DEFINITION. The state of FFI2C-SEQ and of the agents around it, as plain data (spec/10_state.md, the link of
spec/43_engine.md R270, the wire trace of spec/00_scope.md R18), and its value right after power-on reset
(spec/70_reset_and_hazards.md R370). -/

namespace Sys2Proof.Machine

/-- A byte store: (index, byte) pairs, indexes strictly rising, no pair equal to what an unlisted index reads as.
TEXT, TXBUF and STAGE are such stores (Machine/Memory.lean has the operations and the form's predicate). -/
abbrev Memory := List Host.Cell

/-- PHASE (R21), codes 0 to 7 in this order. -/
inductive Phase where
  | off | waitSb | waitAddr | xfer | reopenBtf | reopenStop | recover | init
deriving DecidableEq, Repr

/-- ISTEP (R22): the current step of the INIT or recovery procedure. No rule writes it: when it changes is the model's.
DESIGN CHOICE (log entry 25). -/
inductive IStep where
  | wedge | recoverPulse | float | config | probe | classify | bringUp | loopStart | fail
deriving DecidableEq, Repr

/-- Where SEQ's procedure holds (R12 `delay`, R189 `Wait`): the model's name for the waiting points of R180 to R198 and
R330, between which a procedure is atomic (R15). -/
inductive WaitPoint where
  /-- no procedure is in progress -/
  | idle
  /-- INIT accepted, InitEntry not yet run (R141) -/
  | initEntry
  /-- the settle delay of R182 -/
  | wedgeSettle
  /-- after "drive data low" (R184) -/
  | pulseDataLow
  /-- after "drive clock low" (R184) -/
  | pulseClockLow
  /-- after "release clock" (R184) -/
  | pulseClockHigh
  /-- after "release data" (R184) -/
  | pulseDataHigh
  /-- the settle delay of R186 -/
  | floatSettle
  /-- the fault handler's first block has run (R330) -/
  | recoverEntry
  /-- a Delay step of a bring-up list (R198) -/
  | bringDelay
  /-- SyncTx waits for link.SB (R197) -/
  | txSb
  /-- SyncTx waits for link.ADDR -/
  | txAddr
  /-- SyncTx waits for link.TXE -/
  | txTxe
  /-- SyncTx waits for link.BTF -/
  | txBtf
  /-- SyncTx waits for the STOP to complete -/
  | txStop
deriving DecidableEq, Repr

/-- MODE (R23): a function of DEV_ADDR, not stored. -/
inductive Mode where
  | none | lcd | oled
deriving DecidableEq, Repr

/-- OLED_CYC (R29). -/
inductive OledCyc where
  | row0 | row1 | reopen
deriving DecidableEq, Repr

/-- FAIL_CAUSE (R35). -/
inductive FailCause where
  | none | busWiring | deviceNotFound
deriving DecidableEq, Repr

/-- LAST_ERR.CAUSE (R38). -/
inductive ErrCause where
  | none | linkErr | timeout | injected
deriving DecidableEq, Repr

/-- SEQ's events (spec/30_encoding.md R110), codes 1 to 8 in this order. -/
inductive Event where
  | sb | addr | tc | to | err | inj | btf | stopDone
deriving DecidableEq, Repr

/-- A pad's mode (R36), codes 0 to 3 in this order. -/
inductive PadMode where
  | puIn | pdIn | od | alt
deriving DecidableEq, Repr

/-- link.SPEED (R270). -/
inductive Speed where
  | std | fast
deriving DecidableEq, Repr

/-- The result of a bounded wait or of a synchronous transfer (R189, R197). -/
inductive WaitResult where
  | ok | err | timeout
deriving DecidableEq, Repr

/-- An event of the wire trace W (R18). -/
inductive WireEvent where
  | start
  | addr (b : Byte)
  | data (b : Byte)
  | stop
  | abort
deriving DecidableEq, Repr

/-- The LINK agent's state (R270). link.TXE and link.BTF are computed (Machine/Flags.lean). -/
structure Link where
  en : Bool
  speed : Speed
  /-- OPEN -/
  opn : Bool
  startReq : Bool
  sb : Bool
  addrReq : Option Byte
  addr : Bool
  data : Bool
  q : List Byte
  sent : Bool
  stopBusy : Bool
  err : BitVec 4
deriving DecidableEq, Repr

/-- LINK after power-on (R270). -/
def Link.reset : Link where
  en := false
  speed := .std
  opn := false
  startReq := false
  sb := false
  addrReq := none
  addr := false
  data := false
  q := []
  sent := false
  stopBusy := false
  err := 0

/-- The whole machine. -/
structure State where
  /-- PHASE (R21) -/
  phase : Phase
  /-- ISTEP (R22) -/
  istep : IStep
  /-- PROBE_A (R22) -/
  probeA : BitVec 7
  /-- TRIES (R22) -/
  tries : Nat
  /-- BSTEP (R22) -/
  bstep : Nat
  /-- W0 (R22, R189) -/
  w0 : Nat
  /-- where SEQ's procedure holds -/
  waitAt : WaitPoint
  /-- the tick at which the current delay(n) ends (R12) -/
  delayEnd : Nat
  /-- the addresses ProbeAll has not yet tried (R191) -/
  probeRest : List (BitVec 7)
  /-- SyncTx's a (R197) -/
  txAddr : BitVec 7
  /-- SyncTx's bytes not yet given to the link (R197) -/
  txBytes : List Byte
  /-- SyncTx's sp (R197) -/
  txSpeed : Speed
  /-- TEXT (R24); TEXT[r][c] is index 16 r + c -/
  text : Memory
  /-- BL (R25) -/
  bl : Bool
  /-- TXBUF (R26) -/
  txbuf : Memory
  /-- STAGE (R45) -/
  stage : Memory
  /-- REFRESH_COUNT (R27) -/
  refreshCount : BitVec 8
  /-- DEV_ADDR (R28) -/
  devAddr : BitVec 7
  /-- OLED_CYC (R29) -/
  oledCyc : OledCyc
  /-- WDT_ARMED, WDT_CNT, TO_PEND (R30) -/
  wdtArmed : Bool
  wdtCnt : Nat
  toPend : Bool
  /-- CH_EN, CH_PTR, CH_CNT, TC_PEND (R31) -/
  chEn : Bool
  chPtr : BitVec 9
  chCnt : BitVec 9
  tcPend : Bool
  /-- INJ_PEND (R32) -/
  injPend : Bool
  /-- EVT_EN, ERR_EN (R33) -/
  evtEn : Bool
  errEn : Bool
  /-- SYNC_BUSY, SYNC_SEEN (R34) -/
  syncBusy : Bool
  syncSeen : BitVec 2
  /-- the flags of R35 -/
  initFailed : Bool
  failCause : FailCause
  busDead : Bool
  wedgeSeen : Bool
  wedgeStuck : Bool
  cmdErr : Bool
  /-- the pads (R36) -/
  sclMode : PadMode
  sclLvl : Bool
  sdaMode : PadMode
  sdaLvl : Bool
  /-- FAULT_COUNT, LAST_ERR (R38) -/
  faultCount : BitVec 16
  lastErrRaw : BitVec 4
  lastErrCause : ErrCause
  /-- LAST_EVT (R39); none is code 0 -/
  lastEvt : Option Event
  /-- LINK (R270) -/
  link : Link
  /-- W, oldest first (R18) -/
  wire : List WireEvent
  /-- TICK steps so far (R19) -/
  now : Nat
  /-- the levels BUS presents on SCL and SDA (R36) -/
  busScl : Bool
  busSda : Bool
  /-- MODEL'S OWN: the accesses HOST has still to make -/
  hostProg : List HostOp
  /-- MODEL'S OWN: what HOST's last read returned -/
  hostData : Word
  /-- MODEL'S OWN: the turns given as data -/
  sched : List Turn
  /-- MODEL'S OWN: how many free turns have been taken -/
  freeIdx : Nat
  /-- the OPEN parameters (R7, R8, R9); written by no step (R54) -/
  params : Params
deriving DecidableEq, Repr

/-- Why the machine stops with a fault. -/
inductive Fault where
  /-- Raised by a host access that is not 32 bits wide at a 4-aligned offset below 0x60 (spec/20_memory.md R73,
  93 U8): HOST gets a bus error and the block does not change. Safe: the model stops where the host program is wrong. -/
  | hostBusError
  /-- Raised by a DMA step whose CH_PTR is past TXBUF[255], an index R26 gives no byte. Safe: no run reaches it. -/
  | txbufIndex
deriving DecidableEq, Repr

/-- Why an instruction has no meaning. -/
inductive Refusal where
  /-- Raised by exec for an instruction without a meaning yet; no arm uses it. Safe. -/
  | notModelled (mnemonic : String)
deriving DecidableEq, Repr

/-- The machine right after power-on reset (R370). Values the spec leaves unspecified are named in log entries 2 and 4
to 8. -/
def State.reset : State where
  phase := .off
  istep := .wedge
  probeA := 0
  tries := 0
  bstep := 0
  w0 := 0
  waitAt := .idle
  delayEnd := 0
  probeRest := []
  txAddr := 0
  txBytes := []
  txSpeed := .std
  text := []
  bl := false
  txbuf := []
  stage := []
  refreshCount := 0
  devAddr := 0
  oledCyc := .row0
  wdtArmed := false
  wdtCnt := 0
  toPend := false
  chEn := false
  chPtr := 0
  chCnt := 0
  tcPend := false
  injPend := false
  evtEn := false
  errEn := false
  syncBusy := false
  syncSeen := 0
  initFailed := false
  failCause := .none
  busDead := false
  wedgeSeen := false
  wedgeStuck := false
  cmdErr := false
  sclMode := .puIn
  sclLvl := true
  sdaMode := .puIn
  sdaLvl := true
  faultCount := 0
  lastErrRaw := 0
  lastErrCause := .none
  lastEvt := none
  link := .reset
  wire := []
  now := 0
  busScl := true
  busSda := true
  hostProg := []
  hostData := 0
  sched := []
  freeIdx := 0
  params := .default

end Sys2Proof.Machine
end

