-- ==== Sys2Proof/Machine/Memory.lean ====
section
/-! DEFINITION. The byte stores (spec/20_memory.md R70): reading a byte, writing a byte, writing a run of bytes from
index 0, and the canonical form. Each operation takes the store's background byte, what an unlisted index reads as:
0x20 for TEXT (R24), 0x00 for STAGE (R45), 0x00 for TXBUF (log entry 4). -/

namespace Sys2Proof.Machine

/-- The byte an unlisted cell of TEXT reads as (R24). -/
def textBg : Byte := Config.blank
/-- The byte an unlisted index of STAGE reads as (R45). -/
def stageBg : Byte := 0x00
/-- The byte an unlisted index of TXBUF reads as (log entry 4). -/
def txbufBg : Byte := 0x00

/-- The byte at index `a`. -/
def Memory.read (bg : Byte) : Memory → Nat → Byte
  | [], _ => bg
  | (k, b) :: rest, a => if k = a then b else Memory.read bg rest a

/-- Put the pair (a, b) in its place. -/
def Memory.insert : Memory → Nat → Byte → Memory
  | [], a, b => [(a, b)]
  | (k, v) :: rest, a, b =>
    if a < k then (a, b) :: (k, v) :: rest
    else if a = k then (a, b) :: rest
    else (k, v) :: Memory.insert rest a b

/-- Write byte `b` at index `a`; writing the background byte takes the pair out. -/
def Memory.write (bg : Byte) (m : Memory) (a : Nat) (b : Byte) : Memory :=
  if b = bg then m.filter (fun c => decide (c.1 ≠ a)) else Memory.insert m a b

/-- The pairs of a run of bytes from index `i`, the background byte left out. -/
def Memory.cells (bg : Byte) : Nat → List Byte → Memory
  | _, [] => []
  | i, b :: bs => if b = bg then Memory.cells bg (i + 1) bs else (i, b) :: Memory.cells bg (i + 1) bs

/-- Write a run of bytes at indexes 0, 1, … and leave every later index alone. -/
def Memory.fill (bg : Byte) (m : Memory) (bs : List Byte) : Memory :=
  Memory.cells bg 0 bs ++ m.filter (fun c => decide (bs.length ≤ c.1))

/-- From index `lo` on: strictly rising, below `size`, no background byte. -/
def Memory.wfFrom (bg : Byte) (size : Nat) : Nat → Memory → Bool
  | _, [] => true
  | lo, (k, b) :: rest =>
    decide (lo ≤ k) && decide (k < size) && decide (b ≠ bg) && Memory.wfFrom bg size (k + 1) rest

/-- The canonical form of a store of `size` bytes. -/
def Memory.wf (bg : Byte) (size : Nat) (m : Memory) : Bool := Memory.wfFrom bg size 0 m

/-- The index of TEXT[r][c] in the TEXT store. -/
def cellIdx (r c : Nat) : Nat := 16 * r + c

/-- TEXT[r][c] (R24). -/
def State.cell (s : State) (r c : Nat) : Byte := Memory.read textBg s.text (cellIdx r c)

/-- TXBUF[i] (R26). -/
def State.txAt (s : State) (i : Nat) : Byte := Memory.read txbufBg s.txbuf i

/-- STAGE[i] (R45). -/
def State.stageAt (s : State) (i : Nat) : Byte := Memory.read stageBg s.stage i

/-- The four bytes of a little-endian word (R71), lane 0 first. -/
def lanes (v : Word) : List Byte :=
  [v.extractLsb' 0 8, v.extractLsb' 8 8, v.extractLsb' 16 8, v.extractLsb' 24 8]

/-- The word whose lanes are the four bytes (R71). -/
def wordOfLanes (b0 b1 b2 b3 : Byte) : Word := b3 ++ b2 ++ b1 ++ b0

end Sys2Proof.Machine
end

