-- ==== Sys2Proof/Machine/Encoders.lean ====
section
/-! DEFINITION. The payload builders (spec/42_encoders.md) and the wire byte formats (spec/30_encoding.md R112 to R116),
as functions from what they read to the bytes they produce. Machine/Ops.lean writes the bytes to TXBUF. -/

namespace Sys2Proof.Machine

/-- A flag as the low bit of a byte. -/
def bitByte (b : Bool) : Byte := if b then 1 else 0

/-- emit4(x) (R231): value, value with EN, value. -/
def emit4 (x : Byte) : List Byte := [x, x ||| 0x04, x]

/-- k of R232: BL in bit 3, RS in bit 0, RW and EN 0 (R112). -/
def ctrlBits (bl rs : Bool) : Byte := (bitByte bl <<< 3) ||| bitByte rs

/-- emit8(v, rs) (R232): the high nibble's triple, then the low nibble's. -/
def emit8 (bl : Bool) (v : Byte) (rs : Bool) : List Byte :=
  emit4 ((v &&& 0xF0) ||| ctrlBits bl rs) ++ emit4 (((v <<< 4) &&& 0xF0) ||| ctrlBits bl rs)

/-- LCD_ROW_CMD[r] (R9, R113). -/
def lcdRowCmd (p : Params) (r : Nat) : Byte := if r = 0 then p.lcdRowCmd0 else p.lcdRowCmd1

/-- One row of the HD44780 snapshot (R233): the row command, then sixteen characters. -/
def lcdRow (p : Params) (bl : Bool) (text : Memory) (r : Nat) : List Byte :=
  emit8 bl (lcdRowCmd p r) false ++
    (List.range 16).flatMap (fun c => emit8 bl (Memory.read textBg text (cellIdx r c)) true)

/-- The payload of LcdSnapshot (R233): both rows. -/
def lcdPayload (p : Params) (bl : Bool) (text : Memory) : List Byte :=
  lcdRow p bl text 0 ++ lcdRow p bl text 1

/-- Glyph(ch) (R238). -/
def glyph (ch : Byte) : Nat :=
  if Config.glyphFirst ≤ ch.toNat ∧ ch.toNat ≤ Config.glyphLast then ch.toNat - Config.glyphFirst
  else Config.fallbackChar - Config.glyphFirst

/-- Byte i of OledRow(r) (R240, R241): in each half of 128 bytes, character c fills bytes GLYPH_W c to
GLYPH_W c + GLYPH_W - 1; what lies past the sixteenth character is zero. -/
def oledRowByte (p : Params) (text : Memory) (r i : Nat) : Byte :=
  let half := i / 128
  let j := i % 128
  if j < 16 * p.glyphW then
    Config.font (glyph (Memory.read textBg text (cellIdx r (j / p.glyphW)))) (half * p.glyphW + j % p.glyphW)
  else 0

/-- The payload of OledRow(r) (R240). -/
def oledRowPayload (p : Params) (text : Memory) (r : Nat) : List Byte :=
  (List.range 256).map (oledRowByte p text r)

/-- The display command of the preamble (R245, R246). -/
def displayCmd (bl : Bool) : Byte := if bl then 0xAF else 0xAE

/-- The payload of OledPreamble (R245). -/
def preamblePayload (bl : Bool) : List Byte :=
  [ 0x80, 0x20, 0x80, 0x00, 0x80, 0x21, 0x80, 0x00, 0x80, 0x7F, 0x80, 0x22, 0x80, 0x00, 0x80, 0x03,
    0x80, displayCmd bl, 0x40 ]

/-- Decode6 (R236): the byte, RS and BL that six expander bytes carry, or none if they are no two triples. -/
def decode6 (b0 b1 b2 b3 b4 b5 : Byte) : Option (Byte × Bool × Bool) :=
  if ¬(b1 = b0 ||| 0x04 ∧ b2 = b0 ∧ b4 = b3 ||| 0x04 ∧ b5 = b3) then none
  else if b0.getLsbD 2 = true ∨ b0.getLsbD 1 = true ∨ b0 &&& 0x0F ≠ b3 &&& 0x0F then none
  else some ((b0 &&& 0xF0) ||| (b3 >>> 4), b0.getLsbD 0, b0.getLsbD 3)

/-- The address byte (R116): a << 1, bit 0 = 0 for a write. -/
def addrByte (a : BitVec 7) : Byte := a.setWidth 8 <<< 1

/-- The bytes of one piece of a bring-up transfer, built with the backlight flag (R214, 92 D56). -/
def bringItemBytes (bl : Bool) : BringItem → List Byte
  | .raw b => [b]
  | .nibble n => emit4 ((n.setWidth 8 <<< 4) ||| ctrlBits bl false)
  | .command v => emit8 bl v false

/-- The bytes of a bring-up transfer. -/
def bringBytes (bl : Bool) (items : List BringItem) : List Byte := items.flatMap (bringItemBytes bl)

end Sys2Proof.Machine
end

