-- ==== Sys2Proof/Machine/Flags.lean ====
section
/-! DEFINITION. Everything computed from the state and not stored: MODE, INIT_BUSY, RUNNING, link.TXE, link.BTF, the line
levels SEQ samples, the numeric codes of the enumerations, and the words of the read-only registers
(spec/10_state.md). -/

namespace Sys2Proof.Machine

/-- MODE of a device address (R23). -/
def modeOf (p : Params) (a : BitVec 7) : Mode :=
  if a = 0 then .none else if a = p.oledAddr then .oled else .lcd

/-- MODE (R23). -/
def State.mode (s : State) : Mode := modeOf s.params s.devAddr

/-- SEQ waits for an event in these five phases (R326). -/
def Phase.inLoop : Phase → Bool
  | .waitSb | .waitAddr | .xfer | .reopenBtf | .reopenStop => true
  | .off | .recover | .init => false

/-- RUNNING (R35). -/
def Phase.running : Phase → Bool
  | .waitSb | .waitAddr | .xfer | .reopenBtf | .reopenStop | .recover => true
  | .off | .init => false

/-- INIT_BUSY (R35). -/
def Phase.initBusy : Phase → Bool
  | .init => true
  | .off | .waitSb | .waitAddr | .xfer | .reopenBtf | .reopenStop | .recover => false

/-- The phases in which the channel and the watchdog may be active (R53 c, d). -/
def Phase.transferring : Phase → Bool
  | .waitSb | .waitAddr | .xfer => true
  | .off | .reopenBtf | .reopenStop | .recover | .init => false

/-- INIT is accepted outside INIT and RECOVER (R152). -/
def Phase.acceptsInit : Phase → Bool
  | .init | .recover => false
  | .off | .waitSb | .waitAddr | .xfer | .reopenBtf | .reopenStop => true

/-- FAULT_INJECT is accepted in the five loop phases (R149, R152). -/
def Phase.acceptsInject (p : Phase) : Bool := p.inLoop

/-- link.TXE = DATA and at most one byte in Q (R270). -/
def Link.txe (l : Link) : Bool := l.data && decide (l.q.length ≤ 1)

/-- link.BTF = DATA, Q empty, SENT (R270). -/
def Link.btf (l : Link) : Bool := l.data && decide (l.q = []) && l.sent

/-- The level of a line: 0 if its pad is open-drain and driven low, else what BUS presents (R36). -/
def lineLevel (mode : PadMode) (lvl bus : Bool) : Bool := if mode = .od ∧ lvl = false then false else bus

/-- SCL_IN (R48). -/
def State.sclIn (s : State) : Bool := lineLevel s.sclMode s.sclLvl s.busScl
/-- SDA_IN (R48). -/
def State.sdaIn (s : State) : Bool := lineLevel s.sdaMode s.sdaLvl s.busSda

/-- The wedge condition (R183): SCL high and SDA low. -/
def State.wedged (s : State) : Bool := s.sclIn && !s.sdaIn

/-- PHASE's code (R21). -/
def Phase.code : Phase → BitVec 3
  | .off => 0 | .waitSb => 1 | .waitAddr => 2 | .xfer => 3
  | .reopenBtf => 4 | .reopenStop => 5 | .recover => 6 | .init => 7

/-- MODE's code (R23). -/
def Mode.code : Mode → BitVec 2
  | .none => 0 | .lcd => 1 | .oled => 2

/-- OLED_CYC's code (R29). -/
def OledCyc.code : OledCyc → BitVec 2
  | .row0 => 0 | .row1 => 1 | .reopen => 2

/-- FAIL_CAUSE's code (R35). -/
def FailCause.code : FailCause → BitVec 2
  | .none => 0 | .busWiring => 1 | .deviceNotFound => 2

/-- LAST_ERR.CAUSE's code (R38). -/
def ErrCause.code : ErrCause → BitVec 2
  | .none => 0 | .linkErr => 1 | .timeout => 2 | .injected => 3

/-- An event's code (R110). -/
def Event.code : Event → BitVec 4
  | .sb => 1 | .addr => 2 | .tc => 3 | .to => 4 | .err => 5 | .inj => 6 | .btf => 7 | .stopDone => 8

/-- LAST_EVT's code (R39, R110): NONE is 0. -/
def evtCode : Option Event → BitVec 4
  | none => 0
  | some e => e.code

/-- A pad mode's code (R36). -/
def PadMode.code : PadMode → BitVec 2
  | .puIn => 0 | .pdIn => 1 | .od => 2 | .alt => 3

/-- One flag as a bit. -/
def bit1 (b : Bool) : BitVec 1 := BitVec.ofBool b

/-- STATUS (R42), bit 31 first. -/
def State.statusWord (s : State) : Word :=
  0#8 ++ evtCode s.lastEvt ++ 0#2 ++ s.oledCyc.code ++ bit1 s.bl ++ s.phase.code ++ s.failCause.code ++ s.mode.code
    ++ bit1 s.wedgeStuck ++ bit1 s.wedgeSeen ++ bit1 s.busDead ++ bit1 s.cmdErr ++ bit1 s.syncBusy ++ bit1 s.initFailed
    ++ bit1 s.phase.running ++ bit1 s.phase.initBusy

/-- REFRESH (R43). -/
def State.refreshWord (s : State) : Word := 0#22 ++ s.syncSeen ++ s.refreshCount

/-- DEVADDR (R44). -/
def State.devAddrWord (s : State) : Word := 0#25 ++ s.devAddr

/-- FAULTS (R46). -/
def State.faultsWord (s : State) : Word := 0#16 ++ s.faultCount

/-- LAST_ERR (R47). -/
def State.lastErrWord (s : State) : Word := 0#26 ++ s.lastErrCause.code ++ s.lastErrRaw

/-- PADS (R48). -/
def State.padsWord (s : State) : Word :=
  0#22 ++ bit1 s.sdaIn ++ bit1 s.sclIn ++ 0#1 ++ bit1 s.sdaLvl ++ s.sdaMode.code ++ 0#1 ++ bit1 s.sclLvl ++ s.sclMode.code

/-- STAGEk (R45). -/
def State.stageWord (s : State) (k : Nat) : Word :=
  wordOfLanes (s.stageAt (4 * k)) (s.stageAt (4 * k + 1)) (s.stageAt (4 * k + 2)) (s.stageAt (4 * k + 3))

/-- The word of TEXT row r at 0x40 + 16 r + 4 k (R50, R51, R71). -/
def State.textWord (s : State) (r k : Nat) : Word :=
  wordOfLanes (s.cell r (4 * k)) (s.cell r (4 * k + 1)) (s.cell r (4 * k + 2)) (s.cell r (4 * k + 3))

end Sys2Proof.Machine
end

