-- ==== Sys2Proof/Machine/Ops.lean ====
section
/-! DEFINITION. The named operations every agent uses: the link commands of spec/43_engine.md R271 to R277, the DMA channel
(R282, R283), the watchdog (spec/60_exceptions.md R321), RefreshTick (spec/40_host_commands.md R147), rejecting and accepting
a command (R140), Teardown (R284), taking a fault (R329, R330) and the return from it, LoopStart (R285, R332). -/

namespace Sys2Proof.Machine

/-- W gains an event (R18). -/
def State.traced (s : State) (e : WireEvent) : State := { s with wire := s.wire ++ [e] }

/-- The link after L_RESET (R271): everything cleared but SPEED (log entry 12). -/
def Link.cleared (l : Link) : Link := { Link.reset with speed := l.speed }

/-- What a link reset adds to W (R271): ABORT if a transaction is open. -/
def abortTrace (opn : Bool) : List WireEvent := if opn then [.abort] else []

/-- L_RESET (R271). -/
def State.lReset (s : State) : State :=
  { s with
    wire := s.wire ++ abortTrace s.link.opn
    link := s.link.cleared }

/-- L_CONFIG(sp) (R272). -/
def State.lConfig (s : State) (sp : Speed) : State := { s with link := { s.link with speed := sp, en := true } }

/-- L_START (R273). -/
def State.lStart (s : State) : State := { s with link := { s.link with startReq := true } }

/-- L_ADDR(b) (R274). -/
def State.lAddr (s : State) (b : Byte) : State :=
  { s with link := { s.link with sb := false, addrReq := some b } }

/-- L_CLR_ADDR (R275): opens the data phase. -/
def State.lClrAddr (s : State) : State :=
  { s with link := { s.link with addr := false, data := true, sent := false } }

/-- L_DATA(b) (R276). -/
def State.lData (s : State) (b : Byte) : State := { s with link := { s.link with q := s.link.q ++ [b] } }

/-- L_STOP (R277). -/
def State.lStop (s : State) : State := { s with link := { s.link with stopBusy := true } }

/-- L_CLR_ERR (R277). -/
def State.lClrErr (s : State) : State := { s with link := { s.link with err := 0 } }

/-- DmaReset() (R282). -/
def State.dmaReset (s : State) : State := { s with chEn := false, chPtr := 0, chCnt := 0, tcPend := false }

/-- DmaStart(n) (R283): loads the channel and arms the watchdog. -/
def State.dmaStart (s : State) (n : Nat) : State :=
  { s with
    chPtr := 0
    chCnt := BitVec.ofNat 9 n
    tcPend := false
    chEn := true
    wdtCnt := 0
    toPend := false
    wdtArmed := true }

/-- WdtDisarm() (R321). -/
def State.wdtDisarm (s : State) : State := { s with wdtArmed := false, wdtCnt := 0, toPend := false }

/-- The WDT agent's part of a TICK (R321): single shot at T_WDT. -/
def State.wdtTick (s : State) : State :=
  if s.wdtArmed then
    if s.wdtCnt + 1 = s.params.tWdt then { s with wdtCnt := s.wdtCnt + 1, toPend := true, wdtArmed := false }
    else { s with wdtCnt := s.wdtCnt + 1 }
  else s

/-- SYNC_SEEN after a RefreshTick (R147): it counts while SYNC_BUSY is 1. -/
def seenAfterTick (busy : Bool) (seen : BitVec 2) : BitVec 2 := if busy then seen + 1 else seen

/-- SYNC_BUSY after a RefreshTick (R147): it clears when the count reaches 2. -/
def busyAfterTick (busy : Bool) (seen : BitVec 2) : Bool := busy && decide (seen + 1 ≠ 2)

/-- RefreshTick() (R147), the only writer of REFRESH_COUNT. -/
def State.refreshTick (s : State) : State :=
  { s with
    refreshCount := s.refreshCount + 1
    syncSeen := seenAfterTick s.syncBusy s.syncSeen
    syncBusy := busyAfterTick s.syncBusy s.syncSeen }

/-- A builder's bytes go to TXBUF[0..n-1] (R77, R248). -/
def State.loadTx (s : State) (bs : List Byte) : State := { s with txbuf := Memory.fill txbufBg s.txbuf bs }

/-- LcdSnapshot() with RefreshTick (R233, R234). -/
def State.lcdSnapshot (s : State) : State := (s.loadTx (lcdPayload s.params s.bl s.text)).refreshTick

/-- OledRow(r) (R240). -/
def State.oledRow (s : State) (r : Nat) : State := s.loadTx (oledRowPayload s.params s.text r)

/-- OledPreamble() (R245). -/
def State.oledPreamble (s : State) : State := s.loadTx (preamblePayload s.bl)

/-- The payload lengths (R247). -/
def lcdLen : Nat := 204
def oledRowLen : Nat := 256
def preambleLen : Nat := 19

/-- A rejected command's only effect (R108, R140). -/
def State.rejectCmd (s : State) : State := { s with cmdErr := true }

/-- An accepted command clears CMD_ERR (R140). -/
def State.acceptCmd (s : State) : State := { s with cmdErr := false }

/-- The notifications off (R284, R330). -/
def State.notifyOff (s : State) : State := { s with evtEn := false, errEn := false }

/-- Teardown() (R284). -/
def State.teardown (s : State) : State :=
  { s.lReset.dmaReset.wdtDisarm.notifyOff with injPend := false, phase := .off }

/-- Fault entry bookkeeping (R329): the link's error bits as they are now, the cause, and the count. -/
def State.recordFault (s : State) (cause : ErrCause) : State :=
  { s with lastErrRaw := s.link.err, lastErrCause := cause, faultCount := s.faultCount + 1 }

/-- Taking a fault: the first, atomic block of FaultHandler(cause) (R330). The rest of the handler runs in later SEQ
steps from the waiting point recoverEntry. R22 names no ISTEP for RECOVER before the bring-up: ISTEP keeps its value. DESIGN
CHOICE (log entry 25). -/
def State.takeFault (s : State) (cause : ErrCause) : State :=
  { (s.recordFault cause).lClrErr.lReset.dmaReset.wdtDisarm.notifyOff with
    injPend := false
    phase := .recover
    waitAt := .recoverEntry }

/-- What LoopStart renders (R285): a preamble and a clean cycle state in OLED mode, else a snapshot. -/
def State.loopRender (s : State) : State :=
  if s.mode = .oled then { s.oledPreamble with oledCyc := .row0 } else s.lcdSnapshot

/-- The length of what LoopStart renders (R285). -/
def State.loopLen (s : State) : Nat := if s.mode = .oled then preambleLen else lcdLen

/-- LoopStart() (R285): the end of INIT and the return from a fault (R332). It also ends the procedure, with ISTEP =
LOOPSTART. DESIGN CHOICE (log entry 25). -/
def State.loopStart (s : State) : State :=
  { s.loopRender.lStart.dmaStart s.loopLen with
    evtEn := true
    errEn := true
    phase := .waitSb
    istep := .loopStart
    waitAt := .idle }

/-- The state every power-on reset gives (R370): the block and LINK at their reset values. W gains ABORT if a transaction
is open (R371). Time, BUS, HOST, the turns and the parameters are not the block's and stay (log entry 17). -/
def State.powerOn (s : State) : State :=
  { State.reset with
    wire := s.wire ++ abortTrace s.link.opn
    now := s.now
    busScl := s.busScl
    busSda := s.busSda
    hostProg := s.hostProg
    hostData := s.hostData
    sched := s.sched
    freeIdx := s.freeIdx
    params := s.params }

end Sys2Proof.Machine
end

