-- ==== Sys2Proof/Machine/Discovery.lean ====
section
/-! DEFINITION. SEQ's procedures (spec/41_discovery_recovery.md): the INIT procedure (R180), its wedge check and bit-bang
recovery, the floating check, probing, the bring-up, and the rest of the fault handler (spec/60_exceptions.md R330). A
procedure is atomic between its waiting points (spec/00_scope.md R15): each definition below runs from one waiting point
to the next. -/

namespace Sys2Proof.Machine

/-- delay(n): hold for n ticks at waiting point `p` (R12). -/
def State.hold (s : State) (n : Nat) (p : WaitPoint) : State := { s with delayEnd := s.now + n, waitAt := p }

/-- The current delay is over. -/
def State.delayOver (s : State) : Bool := decide (s.delayEnd ≤ s.now)

/-- Wait(cond) begins at waiting point `p`: W0 <- now (R189). -/
def State.beginWait (s : State) (p : WaitPoint) : State := { s with w0 := s.now, waitAt := p }

/-- One check of the bounded wait (R189): the condition, then the error, then the time. None: still waiting. -/
def State.waitCheck (s : State) (cond : Bool) : Option WaitResult :=
  if cond then some .ok
  else if s.link.err ≠ 0 then some .err
  else if s.params.tWait < s.now - s.w0 then some .timeout
  else none

/-- InitEntry() (R181). -/
def State.initEntry (s : State) : State :=
  { s with initFailed := false, failCause := .none, wedgeSeen := false, wedgeStuck := false }.lReset

/-- Both pads open-drain and released, then the settle delay (R182). -/
def State.wedgeStart (s : State) : State :=
  { s with sclMode := .od, sclLvl := true, sdaMode := .od, sdaLvl := true, istep := .wedge }.hold
    s.params.tSettle .wedgeSettle

/-- The recovery pulse begins: drive data low (R184). -/
def State.pulseStart (s : State) : State :=
  { s with sdaLvl := false, istep := .recoverPulse }.hold s.params.tBb .pulseDataLow

/-- Drive clock low (R184). -/
def State.pulseClockLow (s : State) : State := { s with sclLvl := false }.hold s.params.tBb .pulseClockLow

/-- Release clock (R184). -/
def State.pulseClockHigh (s : State) : State := { s with sclLvl := true }.hold s.params.tBb .pulseClockHigh

/-- Release data while clock is high (R184). -/
def State.pulseDataHigh (s : State) : State := { s with sdaLvl := true }.hold s.params.tBb .pulseDataHigh

/-- Fail(cause) (R187): the procedure ends in PHASE OFF, with ISTEP = FAIL. DESIGN CHOICE (log entry 25). -/
def State.failInit (s : State) (cause : FailCause) : State :=
  { s.lReset with
    sclMode := .puIn
    sdaMode := .puIn
    initFailed := true
    failCause := cause
    phase := .off
    istep := .fail
    waitAt := .idle }

/-- ConfigureLink() (R188). -/
def State.configureLink (s : State) : State :=
  { s with sclMode := .alt, sdaMode := .alt, istep := .config }.lReset.lConfig .std

/-- Abort(sp) (R190): the link reset of R271, so W gains X exactly if a transaction is open. DEDUCED (log entry 24): so is
the bare X of R192 read, by R117's definition of X. -/
def State.abortTx (s : State) : State := s.lReset.lConfig s.txSpeed

/-- SyncTx(a, bytes) begins: START requested, then Wait(link.SB) (R197). -/
def State.syncTxStart (s : State) (a : BitVec 7) (bytes : List Byte) : State :=
  { s with txAddr := a, txBytes := bytes, txSpeed := s.link.speed }.lStart.beginWait .txSb

/-- The addresses of one range in increasing order (R191). -/
def addrRange (lo hi : BitVec 7) : List (BitVec 7) :=
  (List.range (hi.toNat + 1 - lo.toNat)).map (fun i => BitVec.ofNat 7 (lo.toNat + i))

/-- The addresses ProbeAll tries: RANGE_A, then RANGE_B (R191). -/
def probeOrder (p : Params) : List (BitVec 7) := addrRange p.aLo p.aHi ++ addrRange p.bLo p.bHi

/-- The next probe (R191, R192), or the end of the ranges: no device (R194). -/
def State.probeNext (s : State) : State :=
  match s.probeRest with
  | [] => s.failInit .deviceNotFound
  | a :: rest => { s with probeA := a, probeRest := rest }.syncTxStart a []

/-- ProbeAll() begins (R191). -/
def State.probeStart (s : State) : State :=
  { s with istep := .probe, busDead := false, probeRest := probeOrder s.params }.probeNext

/-- The bring-up list of the mode (R198). -/
def State.bringSteps (s : State) : List BringStep :=
  if s.mode = .lcd then s.params.lcdBringUp else s.params.oledBringUp

/-- The step BSTEP of the bring-up, or its end, where the loop starts (R198, R199). -/
def State.bringRun (s : State) : State :=
  match s.bringSteps[s.bstep]? with
  | none => s.loopStart
  | some (.tx items) => s.syncTxStart s.devAddr (bringBytes s.bl items)
  | some (.delay t) => s.hold t .bringDelay

/-- BringUp(MODE) begins (R198). -/
def State.bringStart (s : State) : State := { s with istep := .bringUp, bstep := 0 }.bringRun

/-- On to the next step of the bring-up. -/
def State.bringNext (s : State) : State := { s with bstep := s.bstep + 1 }.bringRun

/-- After the link is configured or the device classified: the speed switch in OLED mode, then the bring-up (R180,
R196). -/
def State.bringEnter (s : State) : State :=
  (if s.mode = .oled then s.lConfig .fast else s).bringStart

/-- Classification (R195): the only write of DEV_ADDR. -/
def State.classify (s : State) : State := { s with devAddr := s.probeA, istep := .classify }.bringEnter

/-- After the wedge check (R180): the floating check on a first discovery (R186), else the link's configuration and the
bring-up (R200). -/
def State.afterWedge (s : State) : State :=
  if s.devAddr = 0 then
    { s with sclMode := .pdIn, sdaMode := .pdIn, istep := .float }.hold s.params.tSettle .floatSettle
  else s.configureLink.bringEnter

/-- The first sample of the wedge check (R182, R183). -/
def State.wedgeSample (s : State) : State :=
  if s.wedged then { s with wedgeSeen := true, tries := 0 }.pulseStart else s.afterWedge

/-- The end of a recovery pulse and the re-check (R184, R185). -/
def State.wedgeRecheck (s : State) : State :=
  let t := { s with tries := s.tries + 1 }
  if t.wedged then
    if t.tries < t.params.recoverTries then t.pulseStart else { t with wedgeStuck := true }.afterWedge
  else t.afterWedge

/-- The floating check's result (R186, R187). -/
def State.floatSample (s : State) : State :=
  if s.sclIn && s.sdaIn then s.configureLink.probeStart else s.failInit .busWiring

/-- A synchronous transfer has ended: what its caller does with the result. In ISTEP PROBE the caller is ProbeAll (R191,
R193, and R180 for the address 0); else it is BringUp, where a failure skips the rest (R198). -/
def State.txDone (s : State) (r : WaitResult) : State :=
  if s.istep = .probe then
    match r with
    | .ok => if s.probeA = 0 then s.failInit .deviceNotFound else s.classify
    | .err => s.probeNext
    | .timeout => { s with busDead := true }.failInit .deviceNotFound
  else
    match r with
    | .ok => s.bringNext
    | .err => s.loopStart
    | .timeout => s.loopStart

/-- A wait of SyncTx (R189, R197): on OK go on, on ERR clear the error, abort and return, on TIMEOUT abort and return. -/
def State.txWait (s : State) (cond : Bool) (go : State → State) : State :=
  match s.waitCheck cond with
  | none => s
  | some .ok => go s
  | some .err => s.lClrErr.abortTx.txDone .err
  | some .timeout => s.abortTx.txDone .timeout

/-- StartSent: send the address (R197). -/
def State.txGotSb (s : State) : State := (s.lAddr (addrByte s.txAddr)).beginWait .txAddr

/-- After the address and after the last byte of an empty list: STOP (R197). -/
def State.txSendStop (s : State) : State := s.lStop.beginWait .txStop

/-- AddressAcked: open the data phase (R197). -/
def State.txGotAddr (s : State) : State :=
  match s.txBytes with
  | [] => s.lClrAddr.txSendStop
  | _ :: _ => s.lClrAddr.beginWait .txTxe

/-- The data register is empty: send the next byte (R197). -/
def State.txGotTxe (s : State) : State :=
  match s.txBytes with
  | [] => s.beginWait .txBtf
  | b :: bs =>
    let t := { s.lData b with txBytes := bs }
    if bs = [] then t.beginWait .txBtf else t.beginWait .txTxe

/-- SEQ's step inside a procedure, from one waiting point to the next (R180, R330). -/
def State.seqProc (s : State) : State :=
  match s.waitAt with
  | .idle => s
  | .initEntry => s.initEntry.wedgeStart
  | .wedgeSettle => if s.delayOver then s.wedgeSample else s
  | .pulseDataLow => if s.delayOver then s.pulseClockLow else s
  | .pulseClockLow => if s.delayOver then s.pulseClockHigh else s
  | .pulseClockHigh => if s.delayOver then s.pulseDataHigh else s
  | .pulseDataHigh => if s.delayOver then s.wedgeRecheck else s
  | .floatSettle => if s.delayOver then s.floatSample else s
  | .recoverEntry => (s.lConfig (if s.mode = .lcd then .std else .fast)).bringStart
  | .bringDelay => if s.delayOver then s.bringNext else s
  | .txSb => s.txWait s.link.sb State.txGotSb
  | .txAddr => s.txWait s.link.addr State.txGotAddr
  | .txTxe => s.txWait s.link.txe State.txGotTxe
  | .txBtf => s.txWait s.link.btf State.txSendStop
  | .txStop => s.txWait (!s.link.stopBusy) (fun t => t.txDone .ok)

end Sys2Proof.Machine
end

