-- ==== Sys2Proof/Machine/Operands.lean ====
section
/-! DEFINITION. The operand forms of the commands (spec/30_encoding.md R109) and the two loops of WRITE
(spec/40_host_commands.md R142). -/

namespace Sys2Proof.Machine

/-- LEN_EFF = min(LEN, 16) (R109). -/
def lenEff (len : BitVec 5) : Nat := min len.toNat 16

/-- The text of a WRITE: STAGE[0..LEN_EFF-1] (R109, R142). -/
def State.stageText (s : State) (len : BitVec 5) : List Byte := (List.range (lenEff len)).map s.stageAt

/-- TEXT with its column and remaining minWidth, as R142's loops carry them. -/
structure WriteCursor where
  text : Memory
  col : Nat
  minw : Nat
deriving DecidableEq, Repr

/-- The first loop of R142: copy the text, clipped at column 16. -/
def copyText (row : Nat) : List Byte → WriteCursor → WriteCursor
  | [], w => w
  | b :: bs, w =>
    if w.col < 16 then
      copyText row bs
        { text := Memory.write textBg w.text (cellIdx row w.col) b, col := w.col + 1, minw := w.minw - 1 }
    else w

/-- The second loop of R142: pad with spaces while minWidth is not used up and the column is below 16. -/
def padText (row : Nat) (text : Memory) (col : Nat) : Nat → Memory
  | 0 => text
  | m + 1 =>
    if col < 16 then padText row (Memory.write textBg text (cellIdx row col) Config.blank) (col + 1) m else text

/-- TEXT after WRITE (R142). -/
def writeResult (text : Memory) (row col minw : Nat) (bs : List Byte) : Memory :=
  let w := copyText row bs { text := text, col := col, minw := minw }
  padText row w.text w.col w.minw

/-- The 32 blanks CLEAR writes (R144). -/
def blanks : List Byte := List.replicate Config.textSize Config.blank

end Sys2Proof.Machine
end

