-- ==== Sys2Proof/Machine/Commands.lean ====
section
/-! DEFINITION. The meanings of the six host commands (spec/40_host_commands.md R141 to R149) with their acceptance by PHASE
(R152). Each is one atomic transition (R140). -/

namespace Sys2Proof.Machine

/-- INIT (R141): tear a running loop down and enter PHASE INIT; the procedure runs in later SEQ steps. R22 names no ISTEP for
INIT before InitEntry: ISTEP keeps its value. DESIGN CHOICE (log entry 25). -/
def execInit (s : State) : Host.Outcome State Fault Refusal :=
  if s.phase.acceptsInit then
    let t := if s.phase.running then s.teardown else s
    .next { t.acceptCmd with phase := .init, waitAt := .initEntry }
  else .next s.rejectCmd

/-- WRITE (R142): accepted in every PHASE. -/
def execWrite (row : BitVec 1) (col : BitVec 5) (minw : BitVec 8) (len : BitVec 5) (s : State) :
    Host.Outcome State Fault Refusal :=
  .next { s.acceptCmd with text := writeResult s.text row.toNat col.toNat minw.toNat (s.stageText len) }

/-- CLEAR (R144): accepted in every PHASE. -/
def execClear (s : State) : Host.Outcome State Fault Refusal :=
  .next { s.acceptCmd with text := Memory.fill textBg s.text blanks }

/-- BACKLIGHT (R145): accepted in every PHASE. -/
def execBacklight (on : BitVec 1) (s : State) : Host.Outcome State Fault Refusal :=
  .next { s.acceptCmd with bl := decide (on = 1) }

/-- SYNC (R146): accepted in every PHASE; a SYNC while one is busy restarts the count. -/
def execSync (s : State) : Host.Outcome State Fault Refusal :=
  .next { s.acceptCmd with syncBusy := true, syncSeen := 0 }

/-- FAULT_INJECT (R149): accepted in the five loop phases only. -/
def execFaultInject (s : State) : Host.Outcome State Fault Refusal :=
  if s.phase.acceptsInject then .next { s.acceptCmd with injPend := true } else .next s.rejectCmd

end Sys2Proof.Machine
end

