-- ==== Sys2Proof/Machine/Dispatch.lean ====
section
/-! DEFINITION. One arm per command. -/

namespace Sys2Proof.Machine

def exec (i : Instr) (s : State) : Host.Outcome State Fault Refusal :=
  match i with
  | .init => Sys2Proof.Machine.execInit s
  | .write row col minw len => Sys2Proof.Machine.execWrite row col minw len s
  | .clear => Sys2Proof.Machine.execClear s
  | .backlight on => Sys2Proof.Machine.execBacklight on s
  | .sync => Sys2Proof.Machine.execSync s
  | .faultInject => Sys2Proof.Machine.execFaultInject s

end Sys2Proof.Machine
end

