-- ==== Sys2Proof/Machine/Engine.lean ====
section
/-! DEFINITION. The loop: the DMA agent's step (spec/43_engine.md R280), SEQ's handlers (R286 to R294 and
spec/60_exceptions.md R322 to R324) and the dispatch of events with its priority (R326, R327). -/

namespace Sys2Proof.Machine

/-- The DMA step is enabled (R280). -/
def State.dmaReady (s : State) : Bool :=
  s.chEn && decide (s.chCnt ≠ 0) && decide (s.phase = .xfer) && s.link.txe

/-- The DMA step (R280). -/
def State.dmaMove (s : State) : State :=
  { s.lData (s.txAt s.chPtr.toNat) with
    chPtr := s.chPtr + 1
    chCnt := s.chCnt - 1
    tcPend := s.tcPend || decide (s.chCnt - 1 = 0) }

/-- The DMA agent's turn: nothing where the step is not enabled, the step where it is. -/
def dmaTurn (s : State) : Host.Outcome State Fault Refusal :=
  if s.dmaReady then
    if s.chPtr.toNat < Config.txbufSize then .next s.dmaMove else .fault .txbufIndex
  else .next s

/-- LAST_EVT records the event taken (R301). -/
def State.tookEvent (s : State) (e : Event) : State := { s with lastEvt := some e }

/-- SB (R286). -/
def State.onSb (s : State) : State := { s.lAddr (addrByte s.devAddr) with phase := .waitAddr }

/-- ADDR (R287). -/
def State.onAddr (s : State) : State := { s.lClrAddr with evtEn := false, phase := .xfer }

/-- The common part of TC (R288). -/
def State.tcCommon (s : State) : State := { s.wdtDisarm with chEn := false, tcPend := false }

/-- TC (R288): the common part, then R289 in LCD mode and R290 to R292 in OLED mode. No builder runs in MODE NONE
(R230). -/
def State.onTc (s : State) : State :=
  match s.mode, s.oledCyc with
  | .none, _ => s.tcCommon
  | .lcd, _ => s.tcCommon.lcdSnapshot.dmaStart lcdLen
  | .oled, .row0 => { s.tcCommon.oledRow 0 with oledCyc := .row1 }.dmaStart oledRowLen
  | .oled, .row1 => { s.tcCommon.oledRow 1 with oledCyc := .reopen }.dmaStart oledRowLen
  | .oled, .reopen => { s.tcCommon with phase := .reopenBtf }

/-- BTF (R293). -/
def State.onBtf (s : State) : State := { s.lStop with phase := .reopenStop }

/-- STOPDONE (R294). -/
def State.onStopDone (s : State) : State :=
  { { s.refreshTick with oledCyc := .row0 }.oledPreamble.lStart with
    evtEn := true
    phase := .waitSb }.dmaStart preambleLen

/-- SEQ's handler of each event; the three fault events take the fault (R322, R323, R324). -/
def State.handle (s : State) : Event → State
  | .sb => s.onSb
  | .addr => s.onAddr
  | .tc => s.onTc
  | .to => s.takeFault .timeout
  | .err => s.takeFault .linkErr
  | .inj => s.takeFault .injected
  | .btf => s.onBtf
  | .stopDone => s.onStopDone

/-- An event is pending and enabled (R320). -/
def State.eventReady (s : State) : Event → Bool
  | .sb => s.evtEn && decide (s.phase = .waitSb) && s.link.sb
  | .addr => s.evtEn && decide (s.phase = .waitAddr) && s.link.addr
  | .tc => s.tcPend
  | .to => s.toPend
  | .err => s.errEn && decide (s.link.err ≠ 0)
  | .inj => s.injPend
  | .btf => decide (s.phase = .reopenBtf) && s.link.btf
  | .stopDone => decide (s.phase = .reopenStop) && !s.link.stopBusy

/-- The priority of simultaneous events, highest first (R327). -/
def eventPriority : List Event := [.err, .inj, .tc, .to, .stopDone, .btf, .addr, .sb]

/-- The event SEQ takes: the highest that is pending and enabled (R326, R327). -/
def State.nextEvent (s : State) : Option Event := eventPriority.find? s.eventReady

/-- SEQ's step in a loop phase (R326): exactly one event, or nothing. -/
def State.seqLoop (s : State) : State :=
  match s.nextEvent with
  | some e => (s.tookEvent e).handle e
  | none => s

end Sys2Proof.Machine
end

