-- ==== Sys2Proof/Machine/LinkSteps.lean ====
section
/-! DEFINITION. The LINK agent's steps (spec/43_engine.md R273 to R278). A step that is not enabled leaves the state as it
is; a link may stall for ever (R279). Once ERR is set the link may still step (R278 "need not"). -/

namespace Sys2Proof.Machine

/-- ERR.AF <- 1 where the slave does not acknowledge (R274, R276). -/
def afUnless (ack : Bool) (err : BitVec 4) : BitVec 4 := if ack then err else err ||| 0x1

/-- The step *start* (R273). -/
def State.linkStart (s : State) : State :=
  if s.link.en && s.link.startReq then
    { s.traced .start with link := { s.link with opn := true, startReq := false, sb := true } }
  else s

/-- The step *address* (R274): the slave acknowledges or not. -/
def State.linkAddress (s : State) (ack : Bool) : State :=
  match s.link.en, s.link.addrReq with
  | true, some b =>
    { s.traced (.addr b) with
      link := { s.link with addrReq := none, addr := s.link.addr || ack, err := afUnless ack s.link.err } }
  | _, _ => s

/-- The step *byte* (R276): the head of Q goes out; the slave acknowledges or not. -/
def State.linkByte (s : State) (ack : Bool) : State :=
  match s.link.en && s.link.data, s.link.q with
  | true, b :: q =>
    { s.traced (.data b) with link := { s.link with q := q, sent := true, err := afUnless ack s.link.err } }
  | _, _ => s

/-- The step *stop* (R277). -/
def State.linkStop (s : State) : State :=
  if s.link.en && s.link.stopBusy && decide (s.link.q = []) then
    { s.traced .stop with link := { s.link with opn := false, data := false, sent := false, stopBusy := false } }
  else s

/-- An error (R278): any nonzero value, at any step while EN = 1; nothing is added to W. -/
def State.linkError (s : State) (e : BitVec 4) : State :=
  if s.link.en && decide (e ≠ 0) then { s with link := { s.link with err := e } } else s

/-- LINK's turn. -/
def State.linkTurn (s : State) : LinkMove → State
  | .start => s.linkStart
  | .address ack => s.linkAddress ack
  | .byte ack => s.linkByte ack
  | .stop => s.linkStop
  | .error e => s.linkError e

end Sys2Proof.Machine
end

