-- ==== Sys2Proof/Machine/Registers.lean ====
section
/-! DEFINITION. The host register window (spec/10_state.md R40 to R52): which accesses decode (spec/20_memory.md R73), what a
read returns (spec/40_host_commands.md R150) and what a write to STAGE does (R151). -/

namespace Sys2Proof.Machine

/-- A register of the window (R40). -/
inductive HostReg where
  | cmd | status | refresh | devAddr
  | stage (k : Nat)
  | faults | lastErr | pads
  | reserved
  | text (row k : Nat)
deriving DecidableEq, Repr

/-- The register at an offset (R40); none where no access decodes (R73). -/
def regAt (off : Nat) : Option HostReg :=
  if off % 4 ≠ 0 ∨ 0x60 ≤ off then none
  else if off = 0x00 then some .cmd
  else if off = 0x04 then some .status
  else if off = 0x08 then some .refresh
  else if off = 0x0C then some .devAddr
  else if off < 0x20 then some (.stage ((off - 0x10) / 4))
  else if off = 0x20 then some .faults
  else if off = 0x24 then some .lastErr
  else if off = 0x28 then some .pads
  else if off < 0x40 then some .reserved
  else if off < 0x50 then some (.text 0 ((off - 0x40) / 4))
  else some (.text 1 ((off - 0x50) / 4))

/-- The register an access reaches: only 32-bit accesses decode (R73). -/
def accessReg (w : AccessWidth) (off : Nat) : Option HostReg := if w = .word then regAt off else none

/-- What a RegRead of a register returns (R41 to R51, R150). -/
def State.regRead (s : State) : HostReg → Word
  | .cmd => 0
  | .status => s.statusWord
  | .refresh => s.refreshWord
  | .devAddr => s.devAddrWord
  | .stage k => s.stageWord k
  | .faults => s.faultsWord
  | .lastErr => s.lastErrWord
  | .pads => s.padsWord
  | .reserved => 0
  | .text row k => s.textWord row k

/-- A RegWrite to STAGEk (R151): the four lanes, byte by byte. -/
def State.stageWrite (s : State) (k : Nat) (v : Word) : State :=
  { s with
    stage := Memory.write stageBg
      (Memory.write stageBg
        (Memory.write stageBg
          (Memory.write stageBg s.stage (4 * k) (v.extractLsb' 0 8))
          (4 * k + 1) (v.extractLsb' 8 8))
        (4 * k + 2) (v.extractLsb' 16 8))
      (4 * k + 3) (v.extractLsb' 24 8) }

end Sys2Proof.Machine
end

