-- ==== Sys2Proof/Machine/Agents.lean ====
section
/-! DEFINITION. One turn of each agent (spec/00_scope.md R10). Every turn is one atomic step (R15, spec/20_memory.md R82); an
agent with no enabled step leaves the state as it is (log entry 1). -/

namespace Sys2Proof.Machine

/-- A word written to CMD (spec/40_host_commands.md R140): a malformed word is rejected (R108), a well-formed one is
executed, its acceptance by PHASE being part of its meaning. -/
def cmdWrite (s : State) (w : Word) : Host.Outcome State Fault Refusal :=
  match decode w with
  | .ok i => exec i s
  | .error _ => .next s.rejectCmd

/-- RegWrite to a register (R74, R75): CMD starts a command, STAGEk stores four bytes, every other write is ignored. -/
def regWrite (s : State) (r : HostReg) (v : Word) : Host.Outcome State Fault Refusal :=
  match r with
  | .cmd => cmdWrite s v
  | .stage k => .next (s.stageWrite k v)
  | .status | .refresh | .devAddr | .faults | .lastErr | .pads | .reserved | .text _ _ => .next s

/-- HOST's access is over. -/
def State.hostDone (s : State) : State := { s with hostProg := s.hostProg.tail }

/-- What a read returns to HOST. -/
def State.hostGot (s : State) (v : Word) : State := { s with hostData := v }

/-- One host access (R73, R150, R151); a POLL stays until the masked value is the one awaited (R121). -/
def hostAccess (s : State) : HostOp → Host.Outcome State Fault Refusal
  | .write w off v =>
    match accessReg w off with
    | some r => regWrite s.hostDone r v
    | none => .fault .hostBusError
  | .read w off =>
    match accessReg w off with
    | some r => .next (s.hostDone.hostGot (s.regRead r))
    | none => .fault .hostBusError
  | .poll off mask value =>
    match accessReg .word off with
    | some r =>
      if s.regRead r &&& mask = value then .next (s.hostDone.hostGot (s.regRead r))
      else .next (s.hostGot (s.regRead r))
    | none => .fault .hostBusError

/-- HOST's turn: its next access, or nothing where it has none left. -/
def hostTurn (s : State) : Host.Outcome State Fault Refusal :=
  match s.hostProg with
  | [] => .next s
  | op :: _ => hostAccess s op

/-- SEQ's turn (spec/60_exceptions.md R326): nothing in OFF, the running procedure in INIT and RECOVER, one event in the
five loop phases. -/
def State.seqTurn (s : State) : State :=
  match s.phase with
  | .off => s
  | .init | .recover => s.seqProc
  | .waitSb | .waitAddr | .xfer | .reopenBtf | .reopenStop => s.seqLoop

/-- TICK's turn (R19): time advances by one tick and the watchdog counts (R321). -/
def State.tickTurn (s : State) : State := { s.wdtTick with now := s.now + 1 }

/-- BUS presents new levels on the two lines (R36). -/
def State.busTurn (s : State) (scl sda : Bool) : State := { s with busScl := scl, busSda := sda }

/-- One turn. -/
def runTurn (t : Turn) (s : State) : Host.Outcome State Fault Refusal :=
  match t with
  | .host => hostTurn s
  | .seq => .next s.seqTurn
  | .dma => dmaTurn s
  | .tick => .next s.tickTurn
  | .link m => .next (s.linkTurn m)
  | .bus scl sda => .next (s.busTurn scl sda)
  | .powerOn => .next s.powerOn

/-- Whose turn it is: the head of the list, or a free value where the list is empty (R404). -/
def State.turn (s : State) : Turn :=
  match s.sched with
  | [] => Config.freeTurn s.freeIdx
  | t :: _ => t

/-- The turn is taken: the list loses its head, or the counter of free turns advances. -/
def State.turnTaken (s : State) : State :=
  match s.sched with
  | [] => { s with freeIdx := s.freeIdx + 1 }
  | _ :: rest => { s with sched := rest }

/-- HOST is given the next turn, and a write of `v` to CMD as its next access. -/
def State.withCommand (s : State) (v : Word) : State :=
  { s with sched := .host :: s.sched, hostProg := .write .word 0x00 v :: s.hostProg }

end Sys2Proof.Machine
end

