-- ==== Sys2Proof/Machine/Step.lean ====
section
/-! DEFINITION. One step of the machine: one agent's turn. -/

namespace Sys2Proof.Machine

/-- One step: the agent whose turn it is takes it. -/
def step (s : State) : Host.Outcome State Fault Refusal := runTurn s.turn s.turnTaken

/-- The state whose very next step is HOST writing the word `w` to CMD (log entry 8). -/
def State.withFetchWord (s : State) (nbits w : Nat) : State := s.withCommand (BitVec.ofNat 32 (w % 2 ^ nbits))

end Sys2Proof.Machine
end

