-- ==== Sys2Proof/Safety.lean ====
section
/-! DEFINITION. What counts as a good state: the invariants of spec/10_state.md R53 with what makes them inductive, and the
link's condition at each point where SEQ waits (spec/43_engine.md R270 to R277, 93 U12). -/

namespace Sys2Proof.Machine

/-- SEQ waits inside a synchronous transfer. -/
def WaitPoint.inTx : WaitPoint → Bool
  | .txSb | .txAddr | .txTxe | .txBtf | .txStop => true
  | .idle | .initEntry | .wedgeSettle | .pulseDataLow | .pulseClockLow | .pulseClockHigh | .pulseDataHigh
  | .floatSettle | .recoverEntry | .bringDelay => false

/-- The procedure is in its bring-up (R198). -/
def State.inBringUp (s : State) : Bool :=
  (decide (s.waitAt = .bringDelay) || s.waitAt.inTx) && decide (s.istep ≠ .probe)

/-- The procedure is in its first discovery, past the wedge check (R186, R191). -/
def State.inDiscovery (s : State) : Bool :=
  decide (s.waitAt = .floatSettle) || (s.waitAt.inTx && decide (s.istep = .probe))

/-- The length of the payload the channel carries (R247): a snapshot, or in OLED mode the preamble before row 0 and a row
after. -/
def State.payloadLen (s : State) : Nat :=
  match s.mode, s.oledCyc with
  | .oled, .row0 => preambleLen
  | .oled, .row1 => oledRowLen
  | .oled, .reopen => oledRowLen
  | .lcd, _ => lcdLen
  | .none, _ => lcdLen

/-- The invariants of R53, and what they need to be kept by every step. -/
structure Inv (s : State) : Prop where
  /-- TEXT, TXBUF and STAGE keep their canonical form. -/
  textWf : Memory.wf textBg Config.textSize s.text = true
  txbufWf : Memory.wf txbufBg Config.txbufSize s.txbuf = true
  stageWf : Memory.wf stageBg Config.stageSize s.stage = true
  /-- R53 (b) -/
  runningDev : s.phase.running = true → s.devAddr ≠ 0
  /-- the bring-up of an INIT has a device -/
  bringDev : s.phase = .init → s.inBringUp = true → s.devAddr ≠ 0
  /-- probing runs only while DEV_ADDR = 0 (R28) -/
  discoveryDev : s.phase = .init → s.inDiscovery = true → s.devAddr = 0
  /-- the fault handler is at its entry or in the bring-up (R331) -/
  recoverAt : s.phase = .recover → s.waitAt = .recoverEntry ∨ s.inBringUp = true
  initAt : s.phase = .init → s.waitAt ≠ .recoverEntry
  delayAt : s.phase = .init → s.waitAt = .bringDelay → s.istep ≠ .probe
  /-- R53 (c) -/
  channelPhase : s.chEn = true → s.phase.transferring = true
  /-- R53 (d) -/
  watchdogPhase : s.wdtArmed = true → s.phase.transferring = true
  timeoutPhase : s.toPend = true → s.phase.transferring = true
  completePhase : s.tcPend = true → s.phase = .xfer
  injectPhase : s.injPend = true → s.phase.inLoop = true
  eventPhase : s.evtEn = true → s.phase.inLoop = true
  errorPhase : s.errEn = true → s.phase.inLoop = true
  /-- the reopen phases are OLED's (R292) -/
  reopenMode : s.phase = .reopenBtf ∨ s.phase = .reopenStop → s.mode = .oled
  /-- R53 (f) -/
  channelSpan : s.chEn = true → s.chPtr.toNat + s.chCnt.toNat = s.payloadLen
  /-- R53 (g) -/
  syncSeenBelow : s.syncBusy = true → s.syncSeen.toNat < 2
  /-- an armed watchdog can still fire (R321) -/
  watchdogBelow : s.wdtArmed = true → 0 < s.params.tWdt → s.wdtCnt < s.params.tWdt

/-- `t` is what step BSTEP of the bring-up leaves of `u` (R197, R198, R199): a transfer to DEV_ADDR begins, its bytes built
with the backlight flag of this moment, or a delay begins; past the end of the list the loop starts. -/
def State.BringsUp (u t : State) : Prop :=
  match (if u.mode = .lcd then u.params.lcdBringUp else u.params.oledBringUp)[u.bstep]? with
  | some (.tx items) => t = { u with
      link := { u.link with startReq := true }
      txAddr := u.devAddr, txBytes := bringBytes u.bl items, txSpeed := u.link.speed, w0 := u.now, waitAt := .txSb }
  | some (.delay n) => t = { u with delayEnd := u.now + n, waitAt := .bringDelay }
  | none => t = u.loopStart

/-- A host access that does not decode (R73): not 32 bits wide, misaligned, or past the window. A POLL is 32 bits wide. -/
def HostOpOutside : HostOp → Prop
  | .read w off => w ≠ .word ∨ off % 4 ≠ 0 ∨ 0x60 ≤ off
  | .write w off _ => w ≠ .word ∨ off % 4 ≠ 0 ∨ 0x60 ≤ off
  | .poll off _ _ => off % 4 ≠ 0 ∨ 0x60 ≤ off

/-- Nothing is open or requested on the link. -/
def Link.quiet (l : Link) : Bool :=
  !l.opn && !l.startReq && !l.sb && decide (l.addrReq = none) && !l.addr && !l.data && decide (l.q = []) && !l.stopBusy

/-- A START is requested, or performed and not yet answered (R273). -/
def Link.starting (l : Link) : Bool :=
  decide (l.startReq = !l.opn) && decide (l.sb = l.opn) && decide (l.addrReq = none) && !l.addr && !l.data
    && decide (l.q = []) && !l.stopBusy

/-- The address is requested or performed, the data phase not yet open (R274). -/
def Link.addressing (l : Link) : Bool :=
  l.opn && !l.startReq && !l.sb && decide (l.addr = true → l.addrReq = none) && !l.data && decide (l.q = [])
    && !l.stopBusy

/-- The data phase is open (R275, R276), at most two bytes in Q (R270). -/
def Link.inData (l : Link) : Bool :=
  l.opn && !l.startReq && !l.sb && decide (l.addrReq = none) && !l.addr && l.data && decide (l.q.length ≤ 2)
    && !l.stopBusy

/-- A STOP is requested or done (R277). -/
def Link.stopping (l : Link) : Bool :=
  l.quiet || (l.opn && !l.startReq && !l.sb && decide (l.addrReq = none) && !l.addr && l.data && decide (l.q = [])
    && l.stopBusy)

/-- What the link may be at each waiting point of a procedure. -/
def Link.fitsWait (l : Link) : WaitPoint → Bool
  | .idle => false
  | .initEntry | .wedgeSettle | .pulseDataLow | .pulseClockLow | .pulseClockHigh | .pulseDataHigh | .floatSettle
  | .recoverEntry | .bringDelay => l.quiet
  | .txSb => l.starting
  | .txAddr => l.addressing
  | .txTxe | .txBtf => l.inData
  | .txStop => l.stopping

/-- What the link may be in each PHASE. -/
def State.linkFits (s : State) : Bool :=
  match s.phase with
  | .off => s.link.quiet
  | .waitSb => s.link.starting
  | .waitAddr => s.link.addressing
  | .xfer | .reopenBtf => s.link.inData
  | .reopenStop => s.link.stopping
  | .recover | .init => s.link.fitsWait s.waitAt

/-- None of the four sources that outrank the link's own conditions is pending: no error with ERR_EN, no INJ, no TC, no TO
(spec/60_exceptions.md R320, R327). -/
def State.noUrgent (s : State) : Prop :=
  s.injPend = false ∧ s.tcPend = false ∧ s.toPend = false ∧ (s.errEn = true → s.link.err = 0)

/-- The hang of spec/70_reset_and_hazards.md R392: SEQ waits in a reopen phase for a condition the link does not show, no
fault is pending and no deadline is armed. -/
def State.hung (s : State) : Prop :=
  ((s.phase = .reopenBtf ∧ ¬(s.link.data = true ∧ s.link.q = [] ∧ s.link.sent = true))
    ∨ (s.phase = .reopenStop ∧ s.link.stopBusy = true))
  ∧ s.noUrgent ∧ s.wdtArmed = false

/-- A test's view of an outcome: it is a next state with this property. -/
def nextIs (o : Host.Outcome State Fault Refusal) (p : State → Bool) : Bool :=
  match o with
  | .next t => p t
  | .fault _ => false
  | .refused _ => false

end Sys2Proof.Machine
end

