-- ==== Sys2Proof/Certificates/Slice0/Obligations.lean ====
section
/-! DEFINITION. The statements for the provers, from the numbered rules of spec/. A statement over every state says what
its agent's turn leaves, as one record: every field the record does not name is unchanged. -/

open Sys2Proof Sys2Proof.Machine

/-! ### Encoding (spec/30_encoding.md) -/

/-- R100 to R107, R109, R120: decoding the encoded word of any command gives it back, with every operand at every value. -/
def Obligations.DecodeEncodeRoundTrip : Prop := ∀ i : Instr, decode (encode i) = .ok i

/-- R101 to R109: a word that decodes is the word its command encodes to, so a word has one meaning and no bit of it is
dropped. -/
def Obligations.EncodeDecodeWord : Prop := ∀ (w : Word) (i : Instr), decode w = .ok i → encode i = w

/-- R108: which words are malformed, by the mask and match of each OP, and what a rejected word does: STATUS.CMD_ERR <- 1
and nothing else, for a malformed word and for the two commands their acceptance condition refuses. -/
def Obligations.RejectedWords : Prop :=
  (∀ w : Word, (∃ i, decode w = .ok i) ↔
    (w = 0x10000000 ∨ w &&& 0xFEE000E0 = 0x20000000 ∨ w = 0x30000000 ∨ w &&& 0xFFFFFFFE = 0x40000000
      ∨ w = 0x50000000 ∨ w = 0x60000000)) ∧
  (∀ (s : State) (w : Word), (∀ i, decode w ≠ .ok i) → cmdWrite s w = .next { s with cmdErr := true }) ∧
  (∀ s : State, s.phase = .init ∨ s.phase = .recover → cmdWrite s 0x10000000 = .next { s with cmdErr := true }) ∧
  (∀ s : State, s.phase = .off ∨ s.phase = .init ∨ s.phase = .recover →
    cmdWrite s 0x60000000 = .next { s with cmdErr := true })

/-- R109: Decode(word), the fields of a WRITE and of a BACKLIGHT as the bits the rule names, and the text of a WRITE. -/
def Obligations.OperandFields : Prop :=
  (decode 0x10000000 = .ok .init ∧ decode 0x30000000 = .ok .clear ∧ decode 0x50000000 = .ok .sync
    ∧ decode 0x60000000 = .ok .faultInject) ∧
  (∀ w : Word, w &&& 0xFEE000E0 = 0x20000000 → ∃ row col minw len, decode w = .ok (.write row col minw len) ∧
    row.toNat = w.toNat / 2 ^ 24 % 2 ∧ col.toNat = w.toNat / 2 ^ 16 % 32 ∧ minw.toNat = w.toNat / 2 ^ 8 % 256
      ∧ len.toNat = w.toNat % 32) ∧
  (∀ w : Word, w &&& 0xFFFFFFFE = 0x40000000 → ∃ on, decode w = .ok (.backlight on) ∧ on.toNat = w.toNat % 2) ∧
  (∀ w : Word, w ≠ 0x10000000 → w &&& 0xFEE000E0 ≠ 0x20000000 → w ≠ 0x30000000 → w &&& 0xFFFFFFFE ≠ 0x40000000 →
    w ≠ 0x50000000 → w ≠ 0x60000000 → ∃ r, decode w = .error r) ∧
  (∀ (s : State) (len : BitVec 5), (s.stageText len).length = min len.toNat 16 ∧
    ∀ i, i < min len.toNat 16 → (s.stageText len)[i]? = some (s.stageAt i))

/-- Words written out from R101 to R108: nine decode to what they stand for (95_test_vectors.md V-DEC-1, 3, 5, 9, 11, 12,
E2 and E3; 0x40000000 from R105), four are rejected (V-DEC-2, 4, 13, 14). -/
def Obligations.SampleWordsDecode : Prop :=
  decode 0x10000000 = .ok .init ∧ decode 0x20001002 = .ok (.write 0 0 16 2) ∧
  decode 0x211F001F = .ok (.write 1 31 0 31) ∧ decode 0x200A0008 = .ok (.write 0 10 0 8) ∧
  decode 0x30000000 = .ok .clear ∧ decode 0x40000000 = .ok (.backlight 0) ∧ decode 0x40000001 = .ok (.backlight 1) ∧
  decode 0x50000000 = .ok .sync ∧ decode 0x60000000 = .ok .faultInject ∧
  decode 0x10000001 = .error .reservedBits ∧ decode 0x211F00FF = .error .reservedBits ∧
  decode 0x00000000 = .error .reservedOp ∧ decode 0x70000000 = .error .reservedOp

/-! ### The step -/

/-- R82, R140, and the model's own turns (log entries 1 and 8): a host write of a word to CMD runs the decoded command on
the state in which the turn and the access are used up; a word that does not decode is rejected there. A step of any
other agent is that agent's turn on the state in which the turn is used up. Placing a word with withFetchWord makes the
very next step run it on the state given. -/
def Obligations.StepRunsDecodedCommand : Prop :=
  (∀ (s : State) (w : Word) (i : Instr) (rest : List HostOp), s.turn = .host →
    s.hostProg = .write .word 0x00 w :: rest → decode w = .ok i →
      step s = exec i { s.turnTaken with hostProg := rest }) ∧
  (∀ (s : State) (w : Word) (r : DecodeReject) (rest : List HostOp), s.turn = .host →
    s.hostProg = .write .word 0x00 w :: rest → decode w = .error r →
      step s = .next { s.turnTaken with hostProg := rest, cmdErr := true }) ∧
  (∀ s : State, s.turnTaken =
    { s with sched := s.sched.tail, freeIdx := if s.sched = [] then s.freeIdx + 1 else s.freeIdx }) ∧
  (∀ s : State, (s.turn = .seq → step s = .next s.turnTaken.seqTurn) ∧
    (s.turn = .tick → step s = .next s.turnTaken.tickTurn) ∧ (s.turn = .dma → step s = dmaTurn s.turnTaken) ∧
    (∀ m, s.turn = .link m → step s = .next (s.turnTaken.linkTurn m)) ∧
    (∀ c d, s.turn = .bus c d → step s = .next { s.turnTaken with busScl := c, busSda := d }) ∧
    (s.turn = .host → s.hostProg = [] → step s = .next s.turnTaken)) ∧
  (∀ (s : State) (w : Word) (i : Instr), decode w = .ok i → step (s.withFetchWord 32 w.toNat) = exec i s)

/-! ### The six commands (spec/40_host_commands.md) -/

/-- R141, R284: INIT outside INIT and RECOVER. From OFF it only enters PHASE INIT; from a running loop it first tears it
down. That SPEED survives the link reset is the model's reading (log entry 12); the field waitAt is the model's
(log entry 6), and so is that ISTEP stays (log entry 25). -/
def Obligations.InitTakesEffect : Prop :=
  (∀ s : State, s.phase = .off → exec .init s = .next { s with cmdErr := false, phase := .init, waitAt := .initEntry }) ∧
  (∀ s : State, s.phase ≠ .off → s.phase ≠ .init → s.phase ≠ .recover → exec .init s = .next
    { s with
      wire := s.wire ++ (if s.link.opn then [.abort] else [])
      link := { Link.reset with speed := s.link.speed }
      chEn := false, chPtr := 0, chCnt := 0, tcPend := false
      wdtArmed := false, wdtCnt := 0, toPend := false
      injPend := false, evtEn := false, errEn := false
      cmdErr := false, phase := .init, waitAt := .initEntry })

/-- R152: the acceptance table. A rejected command sets CMD_ERR and changes nothing else, an accepted one answers a next
state with CMD_ERR = 0. -/
def Obligations.AcceptanceTable : Prop :=
  ∀ (i : Instr) (s : State),
    let accepted : Bool :=
      match i, s.phase with
      | .init, .init => false
      | .init, .recover => false
      | .faultInject, .off => false
      | .faultInject, .init => false
      | .faultInject, .recover => false
      | _, _ => true
    (accepted = true → ∃ t, exec i s = .next t ∧ t.cmdErr = false) ∧
    (accepted = false → exec i s = .next { s with cmdErr := true })

/-- R142, R143: the closed form of WRITE in every PHASE and for all operands, with every cell it does not write and every
other field unchanged. -/
def Obligations.WriteClosedForm : Prop :=
  ∀ (row : BitVec 1) (col : BitVec 5) (minw : BitVec 8) (len : BitVec 5) (s : State),
    ∃ t, exec (.write row col minw len) s = .next t ∧ t = { s with cmdErr := false, text := t.text } ∧
      let w := min (min len.toNat 16) (16 - col.toNat)
      let p := min (minw.toNat - w) (16 - col.toNat - w)
      ∀ r c, c < 16 → t.cell r c =
        if r = row.toNat ∧ col.toNat ≤ c ∧ c < col.toNat + w then s.stageAt (c - col.toNat)
        else if r = row.toNat ∧ col.toNat + w ≤ c ∧ c < col.toNat + w + p then 0x20
        else s.cell r c

/-- R144: CLEAR (0x30000000) in every PHASE writes 0x20 to the 32 cells and nothing else; TEXT0 and TEXT1 then read
0x20202020 in every word. -/
def Obligations.ClearBlanksBothRows : Prop :=
  decode 0x30000000 = .ok .clear ∧
  ∀ s : State, ∃ t, exec .clear s = .next t ∧ t = { s with cmdErr := false, text := t.text } ∧
    (∀ r c, r < 2 → c < 16 → t.cell r c = 0x20) ∧ (∀ r k, r < 2 → k < 4 → t.regRead (.text r k) = 0x20202020) ∧
    (∀ a, 32 ≤ a → Memory.read textBg t.text a = Memory.read textBg s.text a)

/-- R144 "equivalent to writing 16 blank characters to both rows": CLEAR leaves the very state that WRITE 0, 0, 16, 0 and
then WRITE 1, 0, 16, 0 leave, where TEXT has its canonical form. -/
def Obligations.ClearEqualsTwoWrites : Prop :=
  ∀ s : State, Memory.wf textBg Config.textSize s.text = true →
    ∃ t u, exec (.write 0 0 16 0) s = .next t ∧ exec (.write 1 0 16 0) t = .next u ∧ exec .clear s = .next u

/-- R145, R146, R149: BACKLIGHT and SYNC in every PHASE, FAULT_INJECT in the five loop phases; the new BL shows in STATUS
at once. -/
def Obligations.FlagCommandsComplete : Prop :=
  (∀ (on : BitVec 1) (s : State), ∃ t, exec (.backlight on) s = .next t ∧
    t = { s with cmdErr := false, bl := on.getLsbD 0 } ∧ t.statusWord.getLsbD 15 = on.getLsbD 0) ∧
  (∀ s : State, exec .sync s = .next { s with cmdErr := false, syncBusy := true, syncSeen := 0 }) ∧
  (∀ s : State, s.phase ≠ .off → s.phase ≠ .init → s.phase ≠ .recover →
    exec .faultInject s = .next { s with cmdErr := false, injPend := true })

/-- R153: WRITE, CLEAR, BACKLIGHT and SYNC touch neither the transfer (PHASE, channel, watchdog, link, notifications,
TXBUF, W) nor anything else but TEXT, BL, the SYNC pair and CMD_ERR. -/
def Obligations.CommandsKeepTransfers : Prop :=
  ∀ (i : Instr) (s : State), i ≠ .init → i ≠ .faultInject → ∃ t, exec i s = .next t ∧
    t = { s with cmdErr := t.cmdErr, text := t.text, bl := t.bl, syncBusy := t.syncBusy, syncSeen := t.syncSeen }

/-- R154: no command's acceptance or effect depends on FAULT_COUNT, LAST_ERR or on the record of events taken: with any
other values there, every command does the same to everything else and leaves those values as they are. -/
def Obligations.CommandsIgnoreFaultRecord : Prop :=
  ∀ (i : Instr) (s : State) (n : BitVec 16) (raw : BitVec 4) (c : ErrCause) (e : Option Event),
    ∃ t, exec i s = .next t ∧
      exec i { s with faultCount := n, lastErrRaw := raw, lastErrCause := c, lastEvt := e } =
        .next { t with faultCount := n, lastErrRaw := raw, lastErrCause := c, lastEvt := e }

/-- R395: an accepted FAULT_INJECT stays pending until SEQ steps (or the host or a reset intervenes), and SEQ's next step
takes it, unless an ERR is pending, which is taken instead; a TC pending beside it is never handled: nothing is
rendered. -/
def Obligations.InjectTakenNext : Prop :=
  (∀ s : State, s.phase ≠ .off → s.phase ≠ .init → s.phase ≠ .recover → ∃ t, exec .faultInject s = .next t ∧
    t.injPend = true ∧ t.phase = s.phase ∧ t.cmdErr = false) ∧
  (∀ s t : State, step s = .next t → s.turn ≠ .seq → s.turn ≠ .host → s.turn ≠ .powerOn →
    t.injPend = s.injPend ∧ t.phase = s.phase) ∧
  (∀ s : State, s.phase ≠ .off → s.phase ≠ .init → s.phase ≠ .recover → s.injPend = true →
    (s.errEn = true ∧ s.link.err ≠ 0 → s.seqTurn.lastEvt = some .err ∧ s.seqTurn.lastErrCause = .linkErr) ∧
    (¬(s.errEn = true ∧ s.link.err ≠ 0) → s.seqTurn.lastEvt = some .inj ∧ s.seqTurn.lastErrCause = .injected) ∧
    s.seqTurn.phase = .recover ∧ s.seqTurn.injPend = false ∧ s.seqTurn.tcPend = false ∧
    s.seqTurn.faultCount = s.faultCount + 1 ∧ s.seqTurn.txbuf = s.txbuf ∧
    s.seqTurn.refreshCount = s.refreshCount)

/-! ### The host register window (spec/10_state.md R40 to R51, spec/20_memory.md) -/

/-- R75, R121, R150: a read returns the register's value at that instant and changes nothing of the block; a POLL
repeats until the masked value is the one awaited. HOST's program and the place where its last value is kept are the
model's (log entries 8 and 22). -/
def Obligations.RegisterReads : Prop :=
  (∀ (s : State) (off : Nat) (r : HostReg) (rest : List HostOp), s.turn = .host →
    s.hostProg = .read .word off :: rest → regAt off = some r →
      step s = .next { s.turnTaken with hostProg := rest, hostData := s.regRead r }) ∧
  (∀ (s : State) (off : Nat) (mask v : Word) (r : HostReg) (rest : List HostOp), s.turn = .host →
    s.hostProg = .poll off mask v :: rest → regAt off = some r →
      step s = .next { s.turnTaken with
        hostProg := if s.regRead r &&& mask = v then rest else s.hostProg
        hostData := s.regRead r })

/-- R73 with the map of R40: a 32-bit access at a 4-aligned offset within the window reaches the register there; any
other access is a bus error of HOST, the model's fault hostBusError. HOST's program and the stop are the model's (log
entries 8 and 9). -/
def Obligations.HostAccessDecoding : Prop :=
  (regAt 0x00 = some .cmd ∧ regAt 0x04 = some .status ∧ regAt 0x08 = some .refresh ∧ regAt 0x0C = some .devAddr ∧
    regAt 0x20 = some .faults ∧ regAt 0x24 = some .lastErr ∧ regAt 0x28 = some .pads ∧
    (∀ k, k < 4 → regAt (0x10 + 4 * k) = some (.stage k)) ∧ (∀ k, k < 5 → regAt (0x2C + 4 * k) = some .reserved) ∧
    (∀ k, k < 4 → regAt (0x40 + 4 * k) = some (.text 0 k)) ∧ (∀ k, k < 4 → regAt (0x50 + 4 * k) = some (.text 1 k))) ∧
  (∀ (s : State) (w : AccessWidth) (off : Nat) (v : Word) (rest : List HostOp), s.turn = .host →
    (w ≠ .word ∨ off % 4 ≠ 0 ∨ 0x60 ≤ off) →
      (s.hostProg = .read w off :: rest → step s = .fault .hostBusError) ∧
      (s.hostProg = .write w off v :: rest → step s = .fault .hostBusError)) ∧
  (∀ (s : State) (off : Nat) (mask v : Word) (rest : List HostOp), s.turn = .host → off % 4 ≠ 0 ∨ 0x60 ≤ off →
    s.hostProg = .poll off mask v :: rest → step s = .fault .hostBusError) ∧
  (∀ (s : State) (off : Nat) (v : Word) (rest : List HostOp), s.turn = .host → off % 4 = 0 → off < 0x60 →
    ∃ r, regAt off = some r ∧
      (s.hostProg = .read .word off :: rest → ∃ t, step s = .next t ∧ t.hostData = s.regRead r) ∧
      (∀ mask, s.hostProg = .poll off mask v :: rest → ∃ t, step s = .next t ∧ t.hostData = s.regRead r) ∧
      (s.hostProg = .write .word off v :: rest → step s = regWrite { s.turnTaken with hostProg := rest } r v))

/-- R42 (with R21, R23, R29, R35, R39): every field of STATUS, its reset value, and that writes are ignored. -/
def Obligations.StatusRegister : Prop :=
  State.reset.statusWord = 0 ∧
  ∀ (s : State) (v : Word), regWrite s .status v = .next s ∧ s.regRead .status = s.statusWord ∧
    let w := s.statusWord
    w.getLsbD 0 = decide (s.phase = .init) ∧
    w.getLsbD 1 = decide (s.phase ≠ .off ∧ s.phase ≠ .init) ∧
    w.getLsbD 2 = s.initFailed ∧ w.getLsbD 3 = s.syncBusy ∧ w.getLsbD 4 = s.cmdErr ∧ w.getLsbD 5 = s.busDead ∧
    w.getLsbD 6 = s.wedgeSeen ∧ w.getLsbD 7 = s.wedgeStuck ∧
    w.extractLsb' 8 2 = (if s.devAddr = 0 then 0 else if s.devAddr = s.params.oledAddr then 2 else 1) ∧
    w.extractLsb' 10 2 = (match s.failCause with | .none => 0 | .busWiring => 1 | .deviceNotFound => 2) ∧
    w.extractLsb' 12 3 = (match s.phase with
      | .off => 0 | .waitSb => 1 | .waitAddr => 2 | .xfer => 3 | .reopenBtf => 4 | .reopenStop => 5 | .recover => 6
      | .init => 7) ∧
    w.getLsbD 15 = s.bl ∧
    w.extractLsb' 16 2 = (match s.oledCyc with | .row0 => 0 | .row1 => 1 | .reopen => 2) ∧
    w.extractLsb' 18 2 = 0 ∧
    w.extractLsb' 20 4 = (match s.lastEvt with
      | none => 0 | some .sb => 1 | some .addr => 2 | some .tc => 3 | some .to => 4 | some .err => 5 | some .inj => 6
      | some .btf => 7 | some .stopDone => 8) ∧
    w.extractLsb' 24 8 = 0

/-- R43, R44, R46, R47: the values of REFRESH, DEVADDR, FAULTS and LAST_ERR, their reset value 0, and that writes are
ignored. -/
def Obligations.CounterRegisters : Prop :=
  (State.reset.refreshWord = 0 ∧ State.reset.devAddrWord = 0 ∧ State.reset.faultsWord = 0
    ∧ State.reset.lastErrWord = 0) ∧
  ∀ s : State,
    (s.regRead .refresh).toNat = 256 * s.syncSeen.toNat + s.refreshCount.toNat ∧
    (s.regRead .devAddr).toNat = s.devAddr.toNat ∧
    (s.regRead .faults).toNat = s.faultCount.toNat ∧
    (s.regRead .lastErr).toNat = 16 * (match s.lastErrCause with
      | .none => 0 | .linkErr => 1 | .timeout => 2 | .injected => 3) + s.lastErrRaw.toNat ∧
    (∀ v, regWrite s .refresh v = .next s ∧ regWrite s .devAddr v = .next s ∧ regWrite s .faults v = .next s
      ∧ regWrite s .lastErr v = .next s)

/-- R48 (with R36): every field of PADS; a line reads 0 where its pad is open-drain and driven low, and what BUS presents
otherwise. -/
def Obligations.PadsRegister : Prop :=
  (State.reset.sclMode = .puIn ∧ State.reset.sdaMode = .puIn ∧ State.reset.sclLvl = true ∧ State.reset.sdaLvl = true) ∧
  ∀ (s : State) (v : Word), regWrite s .pads v = .next s ∧
    let w := s.regRead .pads
    let code : PadMode → BitVec 2 := fun m => match m with | .puIn => 0 | .pdIn => 1 | .od => 2 | .alt => 3
    w.extractLsb' 0 2 = code s.sclMode ∧ w.getLsbD 2 = s.sclLvl ∧ w.getLsbD 3 = false ∧
    w.extractLsb' 4 2 = code s.sdaMode ∧ w.getLsbD 6 = s.sdaLvl ∧ w.getLsbD 7 = false ∧
    w.getLsbD 8 = (if s.sclMode = .od ∧ s.sclLvl = false then false else s.busScl) ∧
    w.getLsbD 9 = (if s.sdaMode = .od ∧ s.sdaLvl = false then false else s.busSda) ∧
    w.extractLsb' 10 22 = 0

/-- R151 (with R45): a write to STAGEk sets its four bytes in every PHASE and changes nothing else; a read returns them. -/
def Obligations.StageRegister : Prop :=
  ∀ (s : State) (k : Nat) (v : Word), k < 4 → ∃ t, regWrite s (.stage k) v = .next t ∧
    t = { s with stage := t.stage } ∧ t.regRead (.stage k) = v ∧
    (∀ j, j < 4 → t.stageAt (4 * k + j) = v.extractLsb' (8 * j) 8) ∧
    (∀ i, i < 4 * k ∨ 4 * k + 4 ≤ i → t.stageAt i = s.stageAt i)

/-- R49, R74: a reserved offset reads 0, CMD reads 0, and a write to a reserved offset or to a read-only register is
ignored. -/
def Obligations.IgnoredWrites : Prop :=
  (∀ off, off = 0x2C ∨ off = 0x30 ∨ off = 0x34 ∨ off = 0x38 ∨ off = 0x3C → regAt off = some .reserved) ∧
  (∀ s : State, s.regRead .reserved = 0 ∧ s.regRead .cmd = 0) ∧
  (∀ (s : State) (r : HostReg) (v : Word), r ≠ .cmd → (∀ k, r ≠ .stage k) → regWrite s r v = .next s)

/-- R50, R51: the words of TEXT0 and TEXT1, their reset values, and that writes are ignored. -/
def Obligations.TextWindows : Prop :=
  ∀ (s : State) (r k : Nat), r < 2 → k < 4 →
    regAt (0x40 + 16 * r + 4 * k) = some (.text r k) ∧
    (∀ j, j < 4 → (s.regRead (.text r k)).extractLsb' (8 * j) 8 = s.cell r (4 * k + j)) ∧
    (∀ v, regWrite s (.text r k) v = .next s) ∧
    State.reset.regRead (.text r k) = 0x20202020

/-! ### Reset (spec/70_reset_and_hazards.md) -/

/-- R370: what power-on reset leaves, at the start and from every state, for every item the rule gives a value, and the
registers' values after reset. -/
def Obligations.ResetValues : Prop :=
  ∀ s : State, (s = State.reset ∨ ∃ u : State, s = u.powerOn) →
  s.phase = .off ∧ (∀ r, r < 2 → ∀ c, c < 16 → s.cell r c = 0x20) ∧ s.bl = false ∧ s.refreshCount = 0 ∧ s.devAddr = 0 ∧
  s.mode = .none ∧ s.oledCyc = .row0 ∧ s.wdtArmed = false ∧ s.wdtCnt = 0 ∧ s.toPend = false ∧ s.chEn = false ∧
  s.chPtr = 0 ∧ s.chCnt = 0 ∧ s.tcPend = false ∧ s.injPend = false ∧ s.evtEn = false ∧ s.errEn = false ∧
  s.syncBusy = false ∧ s.syncSeen = 0 ∧ s.initFailed = false ∧ s.failCause = .none ∧ s.busDead = false ∧
  s.wedgeSeen = false ∧ s.wedgeStuck = false ∧ s.cmdErr = false ∧ s.sclMode = .puIn ∧ s.sdaMode = .puIn ∧
  s.sclLvl = true ∧ s.sdaLvl = true ∧ s.faultCount = 0 ∧ s.lastErrRaw = 0 ∧ s.lastErrCause = .none ∧
  s.lastEvt = none ∧ (∀ i, i < 16 → s.stageAt i = 0) ∧
  s.link = { en := false, speed := .std, opn := false, startReq := false, sb := false, addrReq := none, addr := false,
             data := false, q := [], sent := false, stopBusy := false, err := 0 } ∧
  s.regRead .status = 0 ∧ s.regRead .refresh = 0 ∧ s.regRead .devAddr = 0 ∧ (∀ k, k < 4 → s.regRead (.stage k) = 0) ∧
  s.regRead .faults = 0 ∧ s.regRead .lastErr = 0 ∧
  (∀ c d, ({ s with busScl := c, busSda := d } : State).regRead .pads =
    0x00000044 ||| ((BitVec.ofBool c).setWidth 32 <<< 8) ||| ((BitVec.ofBool d).setWidth 32 <<< 9)) ∧
  (∀ r, r < 2 → ∀ k, k < 4 → s.regRead (.text r k) = 0x20202020)

/-- R370, R371: the reset input at any instant gives the block and LINK their reset values, and W gains ABORT if a
transaction was open. That time, the bus levels, HOST, the turns and the parameters stay, and what the unspecified items
are reset to, are the model's choices (log entries 4, 5, 6, 17). -/
def Obligations.PowerOnReset : Prop :=
  ∀ s : State, s.turn = .powerOn → ∃ t, step s = .next t ∧ t =
    { State.reset with
      wire := s.wire ++ (if s.link.opn then [.abort] else [])
      now := s.now, busScl := s.busScl, busSda := s.busSda, hostProg := s.hostProg, hostData := s.hostData
      sched := s.turnTaken.sched, freeIdx := s.turnTaken.freeIdx, params := s.params }

/-! ### Payload builders (spec/42_encoders.md) -/

/-- R231, R232, R236: the six bytes of emit8, and that Decode6 recovers the byte and both control bits from them for every
byte, RS and BL; and Decode6 accepts no other six bytes. -/
def Obligations.NibbleReversibility : Prop :=
  (∀ (v : Byte) (rs bl : Bool), ∃ x y : Byte,
    emit8 bl v rs = [x, x ||| 0x04, x, y, y ||| 0x04, y] ∧
    x.toNat = 16 * (v.toNat / 16) + 8 * bl.toNat + rs.toNat ∧
    y.toNat = 16 * (v.toNat % 16) + 8 * bl.toNat + rs.toNat ∧
    decode6 x (x ||| 0x04) x y (y ||| 0x04) y = some (v, rs, bl)) ∧
  (∀ (b0 b1 b2 b3 b4 b5 v : Byte) (rs bl : Bool), decode6 b0 b1 b2 b3 b4 b5 = some (v, rs, bl) →
    emit8 bl v rs = [b0, b1, b2, b3, b4, b5])

/-- R238: Glyph is total, codes outside [0x20, 0x7E] share the glyph of the full stop, codes inside have distinct ones. -/
def Obligations.GlyphTotality : Prop :=
  (∀ ch : Byte, glyph ch ≤ 94) ∧
  (∀ ch : Byte, 0x20 ≤ ch.toNat → ch.toNat ≤ 0x7E → glyph ch = ch.toNat - 0x20) ∧
  (∀ ch : Byte, ch.toNat < 0x20 ∨ 0x7E < ch.toNat → glyph ch = 0x0E ∧ glyph ch = glyph 0x2E) ∧
  (∀ a b : Byte, 0x20 ≤ a.toNat → a.toNat ≤ 0x7E → 0x20 ≤ b.toNat → b.toNat ≤ 0x7E → glyph a = glyph b → a = b)

/-- R233, R234, R235, R247, R248: LcdSnapshot writes the 204 bytes of the layout table, leaves TXBUF[204..] as it was, and
runs RefreshTick; nothing else changes. -/
def Obligations.LcdSnapshotLayout : Prop :=
  ∀ s : State, s.lcdSnapshot = { s.refreshTick with txbuf := s.lcdSnapshot.txbuf } ∧
    (∀ i, i < 6 → (emit8 s.bl s.params.lcdRowCmd0 false)[i]? = some (s.lcdSnapshot.txAt i)) ∧
    (∀ c i, c < 16 → i < 6 → (emit8 s.bl (s.cell 0 c) true)[i]? = some (s.lcdSnapshot.txAt (6 + 6 * c + i))) ∧
    (∀ i, i < 6 → (emit8 s.bl s.params.lcdRowCmd1 false)[i]? = some (s.lcdSnapshot.txAt (102 + i))) ∧
    (∀ c i, c < 16 → i < 6 → (emit8 s.bl (s.cell 1 c) true)[i]? = some (s.lcdSnapshot.txAt (108 + 6 * c + i))) ∧
    (∀ c, c < 16 →
      s.lcdSnapshot.txAt (6 + 6 * c) = (s.cell 0 c &&& (0xF0 : Byte)) ||| (bitByte s.bl <<< 3) ||| (1 : Byte) ∧
      s.lcdSnapshot.txAt (9 + 6 * c) = ((s.cell 0 c <<< 4) &&& (0xF0 : Byte)) ||| (bitByte s.bl <<< 3) ||| (1 : Byte)) ∧
    (∀ i, 204 ≤ i → s.lcdSnapshot.txAt i = s.txAt i) ∧ (lcdPayload s.params s.bl s.text).length = 204

/-- R240, R241: OledRow(r) for a glyph width of 1 to 8, whatever the glyph table FONT holds: both halves, the zero fill,
and that nothing but TXBUF[0..255] changes (so it does not call RefreshTick, R242). -/
def Obligations.OledRowLayout : Prop :=
  ∀ (s : State) (r : Nat), r < 2 → 1 ≤ s.params.glyphW → s.params.glyphW ≤ 8 →
    s.oledRow r = { s with txbuf := (s.oledRow r).txbuf } ∧
    (∀ c k, c < 16 → k < s.params.glyphW →
      (s.oledRow r).txAt (s.params.glyphW * c + k) = Config.font (glyph (s.cell r c)) k ∧
      (s.oledRow r).txAt (128 + s.params.glyphW * c + k) =
        Config.font (glyph (s.cell r c)) (s.params.glyphW + k)) ∧
    (∀ i, 16 * s.params.glyphW ≤ i → i < 128 → (s.oledRow r).txAt i = 0 ∧ (s.oledRow r).txAt (128 + i) = 0) ∧
    (∀ i, 256 ≤ i → (s.oledRow r).txAt i = s.txAt i) ∧ (oledRowPayload s.params s.text r).length = 256

/-- R245, R246: the 19 bytes of OledPreamble, with the display command the backlight flag selects, and nothing else. -/
def Obligations.PreambleBytes : Prop :=
  ∀ s : State, s.oledPreamble = { s with txbuf := s.oledPreamble.txbuf } ∧
    (List.range 19).map s.oledPreamble.txAt =
      [0x80, 0x20, 0x80, 0x00, 0x80, 0x21, 0x80, 0x00, 0x80, 0x7F, 0x80, 0x22, 0x80, 0x00, 0x80, 0x03, 0x80,
       (if s.bl then 0xAF else 0xAE), 0x40] ∧
    (∀ i, 19 ≤ i → s.oledPreamble.txAt i = s.txAt i) ∧ (preamblePayload s.bl).length = 19

/-- R147 (with R146, R396): RefreshTick, and that a SYNC is over at the second tick after it and not at the first. -/
def Obligations.RefreshTickCounts : Prop :=
  (∀ s : State, s.refreshTick = { s with
      refreshCount := s.refreshTick.refreshCount, syncSeen := s.refreshTick.syncSeen
      syncBusy := s.refreshTick.syncBusy } ∧
    s.refreshTick.refreshCount.toNat = (s.refreshCount.toNat + 1) % 256 ∧
    (s.syncBusy = false → s.refreshTick.syncSeen = s.syncSeen ∧ s.refreshTick.syncBusy = false) ∧
    (s.syncBusy = true → s.refreshTick.syncSeen = s.syncSeen + 1 ∧
      s.refreshTick.syncBusy = decide (s.syncSeen + 1 ≠ 2))) ∧
  (∀ s t : State, exec .sync s = .next t →
    t.refreshTick.syncBusy = true ∧ t.refreshTick.refreshTick.syncBusy = false ∧
    t.refreshTick.refreshTick.syncSeen = 2 ∧ t.refreshTick.refreshTick.refreshTick.syncSeen = 2)

/-! ### The link contract and the DMA pump (spec/43_engine.md) -/

/-- R271 to R278: the link commands and LINK's steps, each with what it adds to W; a step that is not enabled changes
nothing. That SPEED survives L_RESET (log entry 12), that an error sets ERR to the value given (log entry 13) and that a
link with ERR set may still step (log entry 23) are the model's readings. -/
def Obligations.LinkMoves : Prop :=
  ∀ s : State,
    s.lReset = { s with
      wire := s.wire ++ (if s.link.opn then [.abort] else [])
      link := { Link.reset with speed := s.link.speed } } ∧
    (∀ sp, s.lConfig sp = { s with link := { s.link with speed := sp, en := true } }) ∧
    s.lStart = { s with link := { s.link with startReq := true } } ∧
    s.linkTurn .start = (if s.link.en = true ∧ s.link.startReq = true then
      { s with
        wire := s.wire ++ [.start]
        link := { s.link with opn := true, startReq := false, sb := true } } else s) ∧
    (∀ b, s.lAddr b = { s with link := { s.link with sb := false, addrReq := some b } }) ∧
    (∀ b, s.link.en = true → s.link.addrReq = some b →
      s.linkTurn (.address true) = { s with
        wire := s.wire ++ [.addr b], link := { s.link with addrReq := none, addr := true } } ∧
      s.linkTurn (.address false) = { s with
        wire := s.wire ++ [.addr b], link := { s.link with addrReq := none, err := s.link.err ||| 1 } }) ∧
    (∀ ack, s.link.en = false ∨ s.link.addrReq = none → s.linkTurn (.address ack) = s) ∧
    s.lClrAddr = { s with link := { s.link with addr := false, data := true, sent := false } } ∧
    (∀ b, s.lData b = { s with link := { s.link with q := s.link.q ++ [b] } }) ∧
    (∀ b q, s.link.en = true → s.link.data = true → s.link.q = b :: q →
      s.linkTurn (.byte true) = { s with
        wire := s.wire ++ [.data b], link := { s.link with q := q, sent := true } } ∧
      s.linkTurn (.byte false) = { s with
        wire := s.wire ++ [.data b], link := { s.link with q := q, sent := true, err := s.link.err ||| 1 } }) ∧
    (∀ ack, s.link.en = false ∨ s.link.data = false ∨ s.link.q = [] → s.linkTurn (.byte ack) = s) ∧
    s.lStop = { s with link := { s.link with stopBusy := true } } ∧
    s.linkTurn .stop = (if s.link.en = true ∧ s.link.stopBusy = true ∧ s.link.q = [] then
      { s with
        wire := s.wire ++ [.stop]
        link := { s.link with opn := false, data := false, sent := false, stopBusy := false } } else s) ∧
    s.lClrErr = { s with link := { s.link with err := 0 } } ∧
    (∀ e, s.linkTurn (.error e) =
      (if s.link.en = true ∧ e ≠ 0 then { s with link := { s.link with err := e } } else s))

/-- R280, R282, R283: the DMA step where it is enabled, that nothing happens where it is not, and the channel operations.
CH_PTR past TXBUF[255], which no run reaches, is outside the first clause (log entry 15). -/
def Obligations.DmaChannel : Prop :=
  (∀ s : State, s.chEn = true → s.chCnt ≠ 0 → s.phase = .xfer → s.link.data = true → s.link.q.length ≤ 1 →
    s.chPtr.toNat < 256 → dmaTurn s = .next { s with
      link := { s.link with q := s.link.q ++ [s.txAt s.chPtr.toNat] }
      chPtr := s.chPtr + 1
      chCnt := s.chCnt - 1
      tcPend := s.tcPend || decide (s.chCnt - 1 = 0) }) ∧
  (∀ s : State, s.chEn = false ∨ s.chCnt = 0 ∨ s.phase ≠ .xfer ∨ s.link.data = false ∨ 2 ≤ s.link.q.length →
    dmaTurn s = .next s) ∧
  (∀ s : State, s.dmaReset = { s with chEn := false, chPtr := 0, chCnt := 0, tcPend := false }) ∧
  (∀ (s : State) (n : Nat), 1 ≤ n → n ≤ 256 → (s.dmaStart n).chCnt.toNat = n ∧
    s.dmaStart n = { s with
      chPtr := 0, chCnt := (s.dmaStart n).chCnt, tcPend := false, chEn := true
      wdtCnt := 0, toPend := false, wdtArmed := true })

/-! ### The loop (spec/43_engine.md, spec/60_exceptions.md) -/

/-- R285, R332: LoopStart leaves a clean cycle state: a preamble and OLED_CYC = ROW0 in OLED mode, a counted snapshot in
LCD mode, notifications on, START requested, the channel loaded and the watchdog armed. The field waitAt is the model's
(log entry 6), and so is ISTEP = LOOPSTART (log entry 25). -/
def Obligations.LoopStartState : Prop :=
  ∀ s : State, s.mode ≠ .none →
    let t := s.loopStart
    (s.mode = .oled → t.txbuf = s.oledPreamble.txbuf ∧ t.oledCyc = .row0 ∧ t.chCnt = 19 ∧
      t.refreshCount = s.refreshCount ∧ t.syncSeen = s.syncSeen ∧ t.syncBusy = s.syncBusy) ∧
    (s.mode = .lcd → t.txbuf = s.lcdSnapshot.txbuf ∧ t.oledCyc = s.oledCyc ∧ t.chCnt = 204 ∧
      t.refreshCount = s.refreshCount + 1 ∧ t.syncSeen = s.refreshTick.syncSeen ∧
      t.syncBusy = s.refreshTick.syncBusy) ∧
    t = { s with
      txbuf := t.txbuf, oledCyc := t.oledCyc, chCnt := t.chCnt, refreshCount := t.refreshCount
      syncSeen := t.syncSeen, syncBusy := t.syncBusy
      evtEn := true, errEn := true, link := { s.link with startReq := true }, phase := .waitSb
      chPtr := 0, tcPend := false, chEn := true, wdtCnt := 0, toPend := false, wdtArmed := true
      istep := .loopStart, waitAt := .idle }

/-- R320, R326, R327: which event SEQ takes in a loop phase: the first, in the order ERR, INJ, TC, TO, STOPDONE, BTF, ADDR,
SB, whose source is pending and enabled; it runs that event's handler and no other, and without an event nothing
happens. After a fault event's handler no event is pending, so there is exactly one handler run. -/
def Obligations.EventPriority : Prop :=
  ∀ s : State,
    let pending : Event → Prop := fun e => match e with
      | .err => s.errEn = true ∧ s.link.err ≠ 0
      | .inj => s.injPend = true
      | .tc => s.tcPend = true
      | .to => s.toPend = true
      | .stopDone => s.phase = .reopenStop ∧ s.link.stopBusy = false
      | .btf => s.phase = .reopenBtf ∧ s.link.data = true ∧ s.link.q = [] ∧ s.link.sent = true
      | .addr => s.evtEn = true ∧ s.phase = .waitAddr ∧ s.link.addr = true
      | .sb => s.evtEn = true ∧ s.phase = .waitSb ∧ s.link.sb = true
    let rank : Event → Nat := fun e => match e with
      | .err => 0 | .inj => 1 | .tc => 2 | .to => 3 | .stopDone => 4 | .btf => 5 | .addr => 6 | .sb => 7
    (∀ e, s.nextEvent = some e ↔ (pending e ∧ ∀ f, rank f < rank e → ¬pending f)) ∧
    (s.nextEvent = none ↔ ∀ e, ¬pending e) ∧
    (s.phase ≠ .off → s.phase ≠ .init → s.phase ≠ .recover →
      (∀ e, s.nextEvent = some e → s.seqTurn = ({ s with lastEvt := some e } : State).handle e) ∧
      (s.nextEvent = none → s.seqTurn = s) ∧
      (∀ e, s.nextEvent = some e → e = .err ∨ e = .inj ∨ e = .to → s.seqTurn.nextEvent = none)) ∧
    (s.phase = .off → s.seqTurn = s)

/-- R286, R287, R293, R294, R116: the handlers of the link's conditions, whole: SB, ADDR, BTF, STOPDONE. The address byte
is DEV_ADDR with bit 0 = 0. -/
def Obligations.LinkEventHandlers : Prop :=
  (∀ s : State, s.noUrgent → s.phase = .waitSb → s.evtEn = true → s.link.sb = true →
    s.seqTurn = { s with
      link := { s.link with sb := false, addrReq := some (s.devAddr ++ (0 : BitVec 1)) }
      phase := .waitAddr, lastEvt := some .sb }) ∧
  (∀ s : State, s.noUrgent → s.phase = .waitAddr → s.evtEn = true → s.link.addr = true →
    s.seqTurn = { s with
      link := { s.link with addr := false, data := true, sent := false }
      evtEn := false, phase := .xfer, lastEvt := some .addr }) ∧
  (∀ s : State, s.noUrgent → s.phase = .reopenBtf → s.link.data = true → s.link.q = [] → s.link.sent = true →
    s.seqTurn = { s with
      link := { s.link with stopBusy := true }, phase := .reopenStop, lastEvt := some .btf }) ∧
  (∀ s : State, s.noUrgent → s.phase = .reopenStop → s.link.stopBusy = false →
    s.seqTurn = { s with
      refreshCount := s.refreshCount + 1, syncSeen := s.refreshTick.syncSeen, syncBusy := s.refreshTick.syncBusy
      oledCyc := .row0, txbuf := s.oledPreamble.txbuf, evtEn := true, link := { s.link with startReq := true }
      phase := .waitSb, chEn := true, chPtr := 0, chCnt := 19, tcPend := false
      wdtArmed := true, wdtCnt := 0, toPend := false, lastEvt := some .stopDone })

/-- R288 to R292: TC, whatever else is pending below it. In LCD mode a fresh snapshot with its RefreshTick, in OLED mode by
OLED_CYC row 0, row 1 or the reopen; the channel and the watchdog restarted (or left off, for the reopen), a deadline
pending at the same instant discarded, the link untouched. -/
def Obligations.TransferComplete : Prop :=
  ∀ s : State, s.phase = .xfer → s.tcPend = true → s.injPend = false → (s.errEn = true → s.link.err = 0) →
    (s.mode = .lcd → s.seqTurn = { s with
      txbuf := s.lcdSnapshot.txbuf, refreshCount := s.refreshCount + 1
      syncSeen := s.refreshTick.syncSeen, syncBusy := s.refreshTick.syncBusy
      chEn := true, chPtr := 0, chCnt := 204, tcPend := false
      wdtArmed := true, wdtCnt := 0, toPend := false, lastEvt := some .tc }) ∧
    (s.mode = .oled → s.oledCyc = .row0 → s.seqTurn = { s with
      txbuf := (s.oledRow 0).txbuf, oledCyc := .row1
      chEn := true, chPtr := 0, chCnt := 256, tcPend := false
      wdtArmed := true, wdtCnt := 0, toPend := false, lastEvt := some .tc }) ∧
    (s.mode = .oled → s.oledCyc = .row1 → s.seqTurn = { s with
      txbuf := (s.oledRow 1).txbuf, oledCyc := .reopen
      chEn := true, chPtr := 0, chCnt := 256, tcPend := false
      wdtArmed := true, wdtCnt := 0, toPend := false, lastEvt := some .tc }) ∧
    (s.mode = .oled → s.oledCyc = .reopen → s.seqTurn = { s with
      chEn := false, tcPend := false
      wdtArmed := false, wdtCnt := 0, toPend := false, phase := .reopenBtf, lastEvt := some .tc })

/-- R300: a link condition outside the phase that awaits it, or an SB or ADDR with EVT_EN = 0, is no event: SEQ does
nothing, whatever the link shows. -/
def Obligations.StaleConditionsIgnored : Prop :=
  ∀ s : State, s.phase ≠ .init → s.phase ≠ .recover → s.noUrgent →
    (s.phase = .waitSb → s.evtEn = false ∨ s.link.sb = false) →
    (s.phase = .waitAddr → s.evtEn = false ∨ s.link.addr = false) →
    (s.phase = .reopenBtf → s.link.data = false ∨ s.link.q ≠ [] ∨ s.link.sent = false) →
    (s.phase = .reopenStop → s.link.stopBusy = true) →
      s.seqTurn = s

/-- R301, R39, R110: LAST_EVT is written in the step that takes an event, with that event, and by nothing else: not by the
conditions polled in INIT and RECOVER, and by no other agent. -/
def Obligations.LastEvtRecorded : Prop :=
  (∀ (s : State) (e : Event), s.phase ≠ .off → s.phase ≠ .init → s.phase ≠ .recover → s.nextEvent = some e →
    s.seqTurn.lastEvt = some e) ∧
  (∀ s : State, s.phase = .off ∨ s.phase = .init ∨ s.phase = .recover ∨ s.nextEvent = none →
    s.seqTurn.lastEvt = s.lastEvt) ∧
  (∀ s t : State, step s = .next t → s.turn ≠ .seq → s.turn ≠ .powerOn → t.lastEvt = s.lastEvt) ∧
  (∀ e : Event, evtCode (some e) = match e with
    | .sb => 1 | .addr => 2 | .tc => 3 | .to => 4 | .err => 5 | .inj => 6 | .btf => 7 | .stopDone => 8)

/-! ### Faults and the watchdog (spec/60_exceptions.md) -/

/-- R322, R323, R324, R329 and the first block of R330: taking a fault. ERR, INJ and TO in any loop phase record the
link's error bits, the cause and the count, and clear link, channel, watchdog, pending events and notifications, in one
step; nothing else changes. That SPEED survives the link reset is the model's reading (log entry 12), the field waitAt
is the model's (log entry 6), and so is that ISTEP stays (log entry 25). -/
def Obligations.FaultEntry : Prop :=
  ∀ s : State, s.phase ≠ .off → s.phase ≠ .init → s.phase ≠ .recover →
    let entry : Event → ErrCause → State := fun e c => { s with
      lastEvt := some e, lastErrRaw := s.link.err, lastErrCause := c, faultCount := s.faultCount + 1
      wire := s.wire ++ (if s.link.opn then [.abort] else [])
      link := { Link.reset with speed := s.link.speed }
      chEn := false, chPtr := 0, chCnt := 0, tcPend := false
      wdtArmed := false, wdtCnt := 0, toPend := false
      injPend := false, evtEn := false, errEn := false, phase := .recover, waitAt := .recoverEntry }
    (s.errEn = true → s.link.err ≠ 0 → s.seqTurn = entry .err .linkErr) ∧
    ((s.errEn = true → s.link.err = 0) → s.injPend = true → s.seqTurn = entry .inj .injected) ∧
    ((s.errEn = true → s.link.err = 0) → s.injPend = false → s.tcPend = false → s.toPend = true →
      s.seqTurn = entry .to .timeout)

/-- R331, R332, R333, R334: the rest of the handler. A SEQ step in RECOVER keeps TEXT, BL, STAGE, DEV_ADDR, the flags, the
pads and the fault record; it stays in RECOVER or starts the loop, where the cycle state is ROW0 in OLED mode with no
RefreshTick, and one RefreshTick is counted in LCD mode. -/
def Obligations.FaultSurvivors : Prop :=
  ∀ s : State, Inv s → s.phase = .recover →
    let t := s.seqTurn
    t.text = s.text ∧ t.bl = s.bl ∧ t.stage = s.stage ∧ t.devAddr = s.devAddr ∧ t.busDead = s.busDead ∧
    t.wedgeSeen = s.wedgeSeen ∧ t.wedgeStuck = s.wedgeStuck ∧ t.initFailed = s.initFailed ∧
    t.failCause = s.failCause ∧ t.cmdErr = s.cmdErr ∧ t.sclMode = s.sclMode ∧ t.sclLvl = s.sclLvl ∧
    t.sdaMode = s.sdaMode ∧ t.sdaLvl = s.sdaLvl ∧ t.faultCount = s.faultCount ∧ t.lastErrRaw = s.lastErrRaw ∧
    t.lastErrCause = s.lastErrCause ∧
    ((t.phase = .recover ∧ t.refreshCount = s.refreshCount ∧ t.syncSeen = s.syncSeen ∧ t.syncBusy = s.syncBusy) ∨
     (t.phase = .waitSb ∧ t.evtEn = true ∧ t.errEn = true ∧
      (s.mode = .oled → t.oledCyc = .row0 ∧ t.refreshCount = s.refreshCount) ∧
      (s.mode = .lcd → t.refreshCount = s.refreshCount + 1)))

/-- R38, R333, R336: FAULT_COUNT and LAST_ERR change only in the SEQ step that takes a fault in a loop phase, where
FAULT_COUNT grows by one (mod 2^16) and PHASE becomes RECOVER, and at a power-on reset. -/
def Obligations.FaultCountOnlyByFaults : Prop :=
  ∀ s t : State, step s = .next t →
    (t.faultCount = s.faultCount ∧ t.lastErrRaw = s.lastErrRaw ∧ t.lastErrCause = s.lastErrCause) ∨
    (s.turn = .powerOn ∧ t.faultCount = 0 ∧ t.lastErrRaw = 0 ∧ t.lastErrCause = .none) ∨
    (s.turn = .seq ∧ s.phase ≠ .off ∧ s.phase ≠ .init ∧ s.phase ≠ .recover ∧
      t.faultCount = s.faultCount + 1 ∧ t.lastErrRaw = s.link.err ∧ t.phase = .recover ∧
      ((t.lastEvt = some .err ∧ t.lastErrCause = .linkErr) ∨ (t.lastEvt = some .to ∧ t.lastErrCause = .timeout) ∨
       (t.lastEvt = some .inj ∧ t.lastErrCause = .injected)))

/-- R321, R19: the watchdog. A TICK step counts it while it is armed; from an arming, which is DmaStart, it fires exactly at
the T_WDT-th tick, once, and stays fired until it is disarmed; unarmed it does nothing. T_WDT is 200 ms by default. -/
def Obligations.WatchdogFires : Prop :=
  (∀ s : State, s.wdtArmed = false → s.tickTurn = { s with now := s.now + 1 }) ∧
  (∀ s : State, s.wdtArmed = true → s.tickTurn = { s with
    now := s.now + 1, wdtCnt := s.wdtCnt + 1
    toPend := s.toPend || decide (s.wdtCnt + 1 = s.params.tWdt)
    wdtArmed := decide (s.wdtCnt + 1 ≠ s.params.tWdt) }) ∧
  (∀ (s : State) (n : Nat), s.wdtArmed = true → s.wdtCnt = 0 → s.toPend = false → 0 < s.params.tWdt →
    (n < s.params.tWdt → (State.tickTurn^[n] s) = { s with now := s.now + n, wdtCnt := n }) ∧
    (s.params.tWdt ≤ n → (State.tickTurn^[n] s) =
      { s with now := s.now + n, wdtCnt := s.params.tWdt, toPend := true, wdtArmed := false })) ∧
  (∀ s : State, s.wdtDisarm = { s with wdtArmed := false, wdtCnt := 0, toPend := false }) ∧
  (∀ (s : State) (n : Nat), (s.dmaStart n).wdtArmed = true ∧ (s.dmaStart n).wdtCnt = 0 ∧ (s.dmaStart n).toPend = false) ∧
  Params.default.tWdt * 5 = Params.default.tickHz

/-! ### INIT and the bring-up (spec/41_discovery_recovery.md) -/

/-- R181, R182, R183: the entry of the INIT procedure, the settle delay, and the wedge sample. A line that a pad drives
low reads low, else it reads what BUS presents (R36). On a re-run (R200) the link is reset and configured at STD (R188), at
FAST in OLED mode (R196), and the bring-up's first step begins (R198). The waiting points and the end of a delay are the
model's fields (log entry 6), when ISTEP changes is its choice (log entry 25), and that SPEED survives the link reset is its
reading (log entry 12). -/
def Obligations.WedgeCheck : Prop :=
  (∀ s : State, s.phase = .init → s.waitAt = .initEntry → s.seqTurn = { s with
    initFailed := false, failCause := .none, wedgeSeen := false, wedgeStuck := false
    wire := s.wire ++ (if s.link.opn then [.abort] else [])
    link := { Link.reset with speed := s.link.speed }
    sclMode := .od, sclLvl := true, sdaMode := .od, sdaLvl := true
    istep := .wedge, delayEnd := s.now + s.params.tSettle, waitAt := .wedgeSettle }) ∧
  (∀ s : State, s.phase = .init → s.waitAt = .wedgeSettle → s.now < s.delayEnd → s.seqTurn = s) ∧
  (∀ s : State, s.phase = .init → s.waitAt = .wedgeSettle → s.delayEnd ≤ s.now → s.sclIn = true → s.sdaIn = false →
    s.seqTurn = { s with
      wedgeSeen := true, tries := 0, sdaLvl := false
      istep := .recoverPulse, delayEnd := s.now + s.params.tBb, waitAt := .pulseDataLow }) ∧
  (∀ s : State, s.phase = .init → s.waitAt = .wedgeSettle → s.delayEnd ≤ s.now → s.sclIn = false ∨ s.sdaIn = true →
    s.seqTurn.wedgeSeen = s.wedgeSeen ∧ s.seqTurn.wedgeStuck = s.wedgeStuck ∧
    (s.devAddr = 0 → s.seqTurn = { s with
      sclMode := .pdIn, sdaMode := .pdIn
      istep := .float, delayEnd := s.now + s.params.tSettle, waitAt := .floatSettle }) ∧
    (s.devAddr ≠ 0 → s.seqTurn.sclMode = .alt ∧ s.seqTurn.sdaMode = .alt ∧ s.seqTurn.devAddr = s.devAddr ∧
      State.BringsUp { s with
        sclMode := .alt, sdaMode := .alt
        wire := s.wire ++ (if s.link.opn then [.abort] else [])
        link := { Link.reset with speed := if s.mode = .oled then .fast else .std, en := true }
        istep := .bringUp, bstep := 0 } s.seqTurn)) ∧
  (∀ s : State, s.sclIn = (if s.sclMode = .od ∧ s.sclLvl = false then false else s.busScl) ∧
    s.sdaIn = (if s.sdaMode = .od ∧ s.sdaLvl = false then false else s.busSda))

/-- R184, R185: the recovery pulse, line by line with its delays, and the re-check: another pulse while the bus reads
wedged and fewer than RECOVER_TRIES pulses were sent, WEDGE_STUCK once they are used up, and on with the procedure: the
floating check on a first discovery (R186), on a re-run the link's configuration and the bring-up's first step (R188, R196,
R198, R200). The waiting points and the end of a delay are the model's fields (log entry 6), and when
ISTEP changes is its choice (log entry 25). -/
def Obligations.RecoveryPulse : Prop :=
  (∀ s : State, s.phase = .init → (s.waitAt = .pulseDataLow ∨ s.waitAt = .pulseClockLow ∨ s.waitAt = .pulseClockHigh ∨
    s.waitAt = .pulseDataHigh) → s.now < s.delayEnd → s.seqTurn = s) ∧
  (∀ s : State, s.phase = .init → s.delayEnd ≤ s.now →
    (s.waitAt = .pulseDataLow → s.seqTurn = { s with
      sclLvl := false, delayEnd := s.now + s.params.tBb, waitAt := .pulseClockLow }) ∧
    (s.waitAt = .pulseClockLow → s.seqTurn = { s with
      sclLvl := true, delayEnd := s.now + s.params.tBb, waitAt := .pulseClockHigh }) ∧
    (s.waitAt = .pulseClockHigh → s.seqTurn = { s with
      sdaLvl := true, delayEnd := s.now + s.params.tBb, waitAt := .pulseDataHigh }) ∧
    (s.waitAt = .pulseDataHigh → s.sclIn = true → s.sdaIn = false → s.tries + 1 < s.params.recoverTries →
      s.seqTurn = { s with
        tries := s.tries + 1, sdaLvl := false
        istep := .recoverPulse, delayEnd := s.now + s.params.tBb, waitAt := .pulseDataLow }) ∧
    (s.waitAt = .pulseDataHigh → s.sclIn = true → s.sdaIn = false → s.params.recoverTries ≤ s.tries + 1 →
      s.seqTurn.wedgeStuck = true ∧ s.seqTurn.tries = s.tries + 1 ∧
      (s.devAddr = 0 → s.seqTurn = { s with
        tries := s.tries + 1, wedgeStuck := true, sclMode := .pdIn, sdaMode := .pdIn
        istep := .float, delayEnd := s.now + s.params.tSettle, waitAt := .floatSettle }) ∧
      (s.devAddr ≠ 0 → s.seqTurn.sclMode = .alt ∧ State.BringsUp { s with
        tries := s.tries + 1, wedgeStuck := true, sclMode := .alt, sdaMode := .alt
        wire := s.wire ++ (if s.link.opn then [.abort] else [])
        link := { Link.reset with speed := if s.mode = .oled then .fast else .std, en := true }
        istep := .bringUp, bstep := 0 } s.seqTurn)) ∧
    (s.waitAt = .pulseDataHigh → s.sclIn = false ∨ s.sdaIn = true →
      s.seqTurn.wedgeStuck = s.wedgeStuck ∧ s.seqTurn.tries = s.tries + 1 ∧
      (s.devAddr = 0 → s.seqTurn = { s with
        tries := s.tries + 1, sclMode := .pdIn, sdaMode := .pdIn
        istep := .float, delayEnd := s.now + s.params.tSettle, waitAt := .floatSettle }) ∧
      (s.devAddr ≠ 0 → s.seqTurn.sclMode = .alt ∧ State.BringsUp { s with
        tries := s.tries + 1, sclMode := .alt, sdaMode := .alt
        wire := s.wire ++ (if s.link.opn then [.abort] else [])
        link := { Link.reset with speed := if s.mode = .oled then .fast else .std, en := true }
        istep := .bringUp, bstep := 0 } s.seqTurn)))

/-- R186, R187, R188, R191: the floating check. The settle delay holds; then a low line fails INIT with BUS_WIRING, and with
both lines high the link is configured at STD and the first address of the ranges is probed. The waiting points and
SyncTx's locals are the model's fields (log entry 6), when ISTEP changes is its choice (log entry 25), and that SPEED
survives the link reset is its reading (log entry 12). -/
def Obligations.FloatCheck : Prop :=
  (∀ s : State, s.phase = .init → s.waitAt = .floatSettle → s.now < s.delayEnd → s.seqTurn = s) ∧
  (∀ s : State, s.phase = .init → s.waitAt = .floatSettle → s.delayEnd ≤ s.now → s.sclIn = false ∨ s.sdaIn = false →
    s.seqTurn = { s with
      wire := s.wire ++ (if s.link.opn then [.abort] else [])
      link := { Link.reset with speed := s.link.speed }
      sclMode := .puIn, sdaMode := .puIn, initFailed := true, failCause := .busWiring
      phase := .off, istep := .fail, waitAt := .idle }) ∧
  (∀ (s : State) (a : BitVec 7) (rest : List (BitVec 7)), s.phase = .init → s.waitAt = .floatSettle →
    s.delayEnd ≤ s.now → s.sclIn = true → s.sdaIn = true → probeOrder s.params = a :: rest →
    s.seqTurn = { s with
      wire := s.wire ++ (if s.link.opn then [.abort] else [])
      link := { Link.reset with speed := .std, en := true, startReq := true }
      sclMode := .alt, sdaMode := .alt, istep := .probe, busDead := false
      probeA := a, probeRest := rest, txAddr := a, txBytes := [], txSpeed := .std, w0 := s.now, waitAt := .txSb })

/-- R191, R8, R204: the order of the probes: RANGE_A upwards, then RANGE_B upwards, every address of both, and never
address 0 where the parameters satisfy R8. -/
def Obligations.ProbeOrder : Prop :=
  ∀ p : Params,
    (probeOrder p).map BitVec.toNat =
      List.range' p.aLo.toNat (p.aHi.toNat + 1 - p.aLo.toNat) ++ List.range' p.bLo.toNat (p.bHi.toNat + 1 - p.bLo.toNat) ∧
    (p.addressesOk = true → (0 : BitVec 7) ∉ probeOrder p ∧ p.oledAddr ∈ probeOrder p ∧ probeOrder p ≠ [])

/-- R197: the synchronous transfer, from each of its waits to the next where the awaited condition holds (an error seen
at the same tick does not matter, R189). The waiting points and SyncTx's locals are the model's fields (log entry 6). -/
def Obligations.SyncTransfer : Prop :=
  ∀ s : State, s.phase = .init ∨ s.phase = .recover →
    (s.waitAt = .txSb → s.link.sb = true → s.seqTurn = { s with
      link := { s.link with sb := false, addrReq := some (s.txAddr ++ (0 : BitVec 1)) }
      w0 := s.now, waitAt := .txAddr }) ∧
    (s.waitAt = .txAddr → s.link.addr = true → s.txBytes ≠ [] → s.seqTurn = { s with
      link := { s.link with addr := false, data := true, sent := false }, w0 := s.now, waitAt := .txTxe }) ∧
    (s.waitAt = .txAddr → s.link.addr = true → s.txBytes = [] → s.seqTurn = { s with
      link := { s.link with addr := false, data := true, sent := false, stopBusy := true }
      w0 := s.now, waitAt := .txStop }) ∧
    (∀ b bs, s.waitAt = .txTxe → s.link.data = true → s.link.q.length ≤ 1 → s.txBytes = b :: bs → s.seqTurn = { s with
      link := { s.link with q := s.link.q ++ [b] }, txBytes := bs
      w0 := s.now, waitAt := if bs = [] then .txBtf else .txTxe }) ∧
    (s.waitAt = .txBtf → s.link.data = true → s.link.q = [] → s.link.sent = true → s.seqTurn = { s with
      link := { s.link with stopBusy := true }, w0 := s.now, waitAt := .txStop })

/-- R189, R190, R193, R194, R198: the bounded wait of a transfer whose awaited condition does not hold. It goes on
waiting for T_WAIT ticks; an error (cleared) or more than T_WAIT ticks abort the transfer. In a probe an error moves on
to the next address or, after the last, fails INIT, and a timeout sets BUS_DEAD and fails INIT; in a bring-up either runs
LoopStart on what the abort leaves (R285) and is no INIT failure. That the check is made at SEQ's turns (log entry 10), the
waiting points (log entry 6), that SPEED survives the link reset (log entry 12), and that the bare X of R192 is an ABORT
only of an open transaction (R117, R271), so that W gains nothing where a probe's error comes before its START (log entry
24), and when ISTEP changes (log entry 25) are the model's. -/
def Obligations.BoundedWait : Prop :=
  ∀ s : State, s.phase = .init ∨ s.phase = .recover →
    (s.waitAt = .txSb ∧ s.link.sb = false) ∨ (s.waitAt = .txAddr ∧ s.link.addr = false) ∨
    (s.waitAt = .txTxe ∧ s.link.txe = false) ∨ (s.waitAt = .txBtf ∧ s.link.btf = false) ∨
    (s.waitAt = .txStop ∧ s.link.stopBusy = true) →
    (s.link.err = 0 → s.now - s.w0 ≤ s.params.tWait → s.seqTurn = s) ∧
    (s.istep = .probe → s.link.err = 0 → s.params.tWait < s.now - s.w0 → s.seqTurn = { s with
      busDead := true
      wire := s.wire ++ (if s.link.opn then [.abort] else [])
      link := { Link.reset with speed := s.txSpeed }
      sclMode := .puIn, sdaMode := .puIn, initFailed := true, failCause := .deviceNotFound
      phase := .off, istep := .fail, waitAt := .idle }) ∧
    (s.istep = .probe → s.link.err ≠ 0 → s.probeRest = [] → s.seqTurn = { s with
      wire := s.wire ++ (if s.link.opn then [.abort] else [])
      link := { Link.reset with speed := s.txSpeed }
      sclMode := .puIn, sdaMode := .puIn, initFailed := true, failCause := .deviceNotFound
      phase := .off, istep := .fail, waitAt := .idle }) ∧
    (∀ a rest, s.istep = .probe → s.link.err ≠ 0 → s.probeRest = a :: rest → s.seqTurn = { s with
      wire := s.wire ++ (if s.link.opn then [.abort] else [])
      link := { Link.reset with speed := s.txSpeed, en := true, startReq := true }
      probeA := a, probeRest := rest, txAddr := a, txBytes := [], w0 := s.now, waitAt := .txSb }) ∧
    (s.istep ≠ .probe → s.link.err ≠ 0 ∨ s.params.tWait < s.now - s.w0 →
      s.seqTurn.phase = .waitSb ∧ s.seqTurn.evtEn = true ∧ s.seqTurn.errEn = true ∧
      s.seqTurn.wire = s.wire ++ (if s.link.opn then [.abort] else []) ∧
      s.seqTurn.link = { Link.reset with speed := s.txSpeed, en := true, startReq := true } ∧
      s.seqTurn.initFailed = s.initFailed ∧ s.seqTurn.busDead = s.busDead ∧ s.seqTurn.devAddr = s.devAddr ∧
      s.seqTurn = State.loopStart { s with
        wire := s.wire ++ (if s.link.opn then [.abort] else [])
        link := { Link.reset with speed := s.txSpeed, en := true } })

/-- R191, R195, R196, R198: a probe that completes classifies the device (the only write of DEV_ADDR) and begins the first
step of its bring-up, at FAST in OLED mode. The waiting points and SyncTx's locals are the model's fields (log
entry 6), and when ISTEP changes is its choice (log entry 25). -/
def Obligations.Classification : Prop :=
  ∀ s : State, s.phase = .init → s.istep = .probe → s.waitAt = .txStop → s.link.stopBusy = false → s.probeA ≠ 0 →
    State.BringsUp { s with
      devAddr := s.probeA, istep := .bringUp, bstep := 0
      link := { s.link with
        speed := if s.probeA = s.params.oledAddr then .fast else s.link.speed
        en := s.link.en || decide (s.probeA = s.params.oledAddr) } } s.seqTurn

/-- R198, R199, R285, R330: the bring-up. After a step of the list the next one runs: a transfer to DEV_ADDR, whose bytes
are built with the backlight flag of this moment, or a delay; after the last, LoopStart runs on the state the procedure
leaves. The fault handler enters the list at its first step, the link configured at STD in LCD mode and at FAST otherwise.
The waiting points, the end of a delay and SyncTx's locals are the model's fields (log entry 6), and when ISTEP changes is
its choice (log entry 25). -/
def Obligations.BringUp : Prop :=
  (∀ s : State, s.phase = .init ∨ s.phase = .recover → s.istep ≠ .probe →
    (s.waitAt = .txStop ∧ s.link.stopBusy = false) ∨ (s.waitAt = .bringDelay ∧ s.delayEnd ≤ s.now) →
    let list := if s.mode = .lcd then s.params.lcdBringUp else s.params.oledBringUp
    (∀ items, list[s.bstep + 1]? = some (.tx items) → s.seqTurn = { s with
      bstep := s.bstep + 1, link := { s.link with startReq := true }
      txAddr := s.devAddr, txBytes := bringBytes s.bl items, txSpeed := s.link.speed
      w0 := s.now, waitAt := .txSb }) ∧
    (∀ n, list[s.bstep + 1]? = some (.delay n) → s.seqTurn = { s with
      bstep := s.bstep + 1, delayEnd := s.now + n, waitAt := .bringDelay }) ∧
    (list[s.bstep + 1]? = none → s.seqTurn.phase = .waitSb ∧ s.seqTurn.initFailed = s.initFailed ∧
      s.seqTurn.devAddr = s.devAddr ∧ s.seqTurn.wdtArmed = true ∧ s.seqTurn.chEn = true ∧
      s.seqTurn = State.loopStart { s with bstep := s.bstep + 1 })) ∧
  (∀ s : State, s.phase = .init ∨ s.phase = .recover → s.waitAt = .bringDelay → s.now < s.delayEnd → s.seqTurn = s) ∧
  (∀ s : State, s.phase = .recover → s.waitAt = .recoverEntry → State.BringsUp { s with
    istep := .bringUp, bstep := 0
    link := { s.link with speed := if s.mode = .lcd then .std else .fast, en := true } } s.seqTurn)

/-- R200, R201: how INIT can end. A SEQ step in INIT stays in INIT, or starts the loop with a device and without touching
INIT_FAILED, or fails in OFF with a cause and no device, the pads pulled up. A re-run (DEV_ADDR nonzero) never fails and
keeps DEV_ADDR and BUS_DEAD. -/
def Obligations.InitOutcomes : Prop :=
  ∀ s : State, Inv s → s.phase = .init →
    let t := s.seqTurn
    (t.phase = .init ∨
      (t.phase = .waitSb ∧ t.devAddr ≠ 0 ∧ t.initFailed = s.initFailed) ∨
      (t.phase = .off ∧ t.initFailed = true ∧ t.failCause ≠ .none ∧ t.devAddr = 0 ∧ t.sclMode = .puIn ∧
        t.sdaMode = .puIn)) ∧
    (s.devAddr ≠ 0 → t.phase ≠ .off ∧ t.devAddr = s.devAddr ∧ t.busDead = s.busDead)

/-! ### The whole machine -/

/-- R28: DEV_ADDR is 0 after reset and, once nonzero, never changes until power-on reset; and it is written only by SEQ in
INIT, with the address that was probed. That ISTEP is PROBE there is the model's choice (log entry 25). -/
def Obligations.DevAddrImmutable : Prop :=
  (State.reset.devAddr = 0 ∧ ∀ s : State, s.powerOn.devAddr = 0) ∧
  ∀ s t : State, Inv s → step s = .next t → s.turn ≠ .powerOn →
    (s.devAddr ≠ 0 → t.devAddr = s.devAddr) ∧
    (t.devAddr ≠ s.devAddr → s.turn = .seq ∧ s.phase = .init ∧ s.istep = .probe ∧ t.devAddr = s.probeA)

/-- R24, R25, R45, R54: who writes the host's stores. The parameters are written by no step. TEXT, BL and STAGE change only
in a host access: TEXT by a WRITE or a CLEAR, BL by a BACKLIGHT, STAGE by a write to STAGE. -/
def Obligations.StoreWriters : Prop :=
  ∀ s t : State, step s = .next t →
    t.params = s.params ∧
    (s.turn ≠ .host → s.turn ≠ .powerOn → t.text = s.text ∧ t.bl = s.bl ∧ t.stage = s.stage) ∧
    (s.turn = .host →
      (t.text ≠ s.text → ∃ w rest i, s.hostProg = .write .word 0x00 w :: rest ∧ decode w = .ok i ∧
        (i = .clear ∨ ∃ row col minw len, i = .write row col minw len)) ∧
      (t.bl ≠ s.bl → ∃ w rest on, s.hostProg = .write .word 0x00 w :: rest ∧ decode w = .ok (.backlight on)) ∧
      (t.stage ≠ s.stage → ∃ k v rest, k < 4 ∧ s.hostProg = .write .word (0x10 + 4 * k) v :: rest))

/-- R27, R147, R242, R299: REFRESH_COUNT changes only by a RefreshTick, in a SEQ step; in OLED mode that is the step that
takes STOPDONE, never a TC or a fault. -/
def Obligations.RefreshOnlyByTick : Prop :=
  ∀ s t : State, step s = .next t → s.turn ≠ .powerOn →
    (t.refreshCount = s.refreshCount ∨
      (s.turn = .seq ∧ t.refreshCount = s.refreshCount + 1 ∧ t.syncSeen = s.refreshTick.syncSeen ∧
        t.syncBusy = s.refreshTick.syncBusy)) ∧
    (Inv s → s.mode = .oled → t.refreshCount ≠ s.refreshCount →
      s.phase = .reopenStop ∧ s.link.stopBusy = false ∧ t.lastEvt = some .stopDone ∧ t.oledCyc = .row0)

/-- R392, R389: the reopen waits are unbounded. While the link does not move, a hung machine stays hung in its phase
through every step of SEQ, DMA, TICK, BUS and HOST, except INIT and FAULT_INJECT: no fault is counted and REFRESH_COUNT
stands still. -/
def Obligations.ReopenHang : Prop :=
  ∀ s t : State, s.hung → step s = .next t → s.turn ≠ .powerOn → (∀ m, s.turn ≠ .link m) →
    (s.turn = .host → ∀ w rest, s.hostProg = .write .word 0x00 w :: rest →
      decode w ≠ .ok .init ∧ decode w ≠ .ok .faultInject) →
    t.hung ∧ t.phase = s.phase ∧ t.refreshCount = s.refreshCount ∧ t.faultCount = s.faultCount

/-- R53: the invariants hold after power-on reset, and the link fits PHASE there. -/
def Obligations.InvAtReset : Prop := Inv State.reset ∧ State.reset.linkFits = true

/-- R53 and what makes it inductive: every step from a state with Inv, reached or not, gives a state with Inv: the stores
keep their canonical form, a running loop has a device (b), the channel and the watchdog are active only in WAIT_SB,
WAIT_ADDR and XFER (c, d), CH_CNT + CH_PTR is the payload's length (f), SYNC_BUSY implies SYNC_SEEN < 2 (g). -/
def Obligations.InvKept : Prop := ∀ s t : State, Inv s → step s = .next t → Inv t

/-- R270, R273, R276, U12: whatever the agents do, the link's state fits what SEQ waits for: START is requested only while
nothing is open, at most two bytes are in Q, a STOP is requested only with Q empty. -/
def Obligations.LinkContractKept : Prop :=
  ∀ s t : State, Inv s → s.linkFits = true → step s = .next t → t.linkFits = true

/-- R73, 93_implementation_defined.md U8: from a state with Inv the machine stops only where HOST has the turn and its next
access is not 32 bits wide, misaligned or past the window; no state of the block itself stops it, and it refuses nothing.
That such an access stops the machine (log entry 9), and that a DMA index past TXBUF, which Inv rules out, would (log
entry 15), is the model's choice. -/
def Obligations.OnlyHostFaults : Prop :=
  ∀ s : State, Inv s →
    (∀ r, step s = .fault r → r = .hostBusError ∧ s.turn = .host ∧
      ∃ op rest, s.hostProg = op :: rest ∧ HostOpOutside op) ∧
    (∀ r, step s ≠ .refused r)
end

