-- ==== Sys2Proof/Laws/Memory.lean ====
section
/-! SUPPORT. The laws of the byte stores: what a read returns after each operation, and that every operation keeps the
canonical form. -/

namespace Sys2Proof.Machine

theorem Memory.read_insert_same (bg : Byte) (m : Memory) (a : Nat) (b : Byte) :
    Memory.read bg (Memory.insert m a b) a = b := by
  induction m with
  | nil => simp [Memory.insert, Memory.read]
  | cons c rest ih =>
    obtain ⟨k, v⟩ := c
    simp only [Memory.insert]
    split
    · simp [Memory.read]
    · split
      · simp [Memory.read]
      · rename_i h1 h2
        simp [Memory.read, Ne.symm h2, ih]

theorem Memory.read_insert_other (bg : Byte) (m : Memory) (a c : Nat) (b : Byte) (h : c ≠ a) :
    Memory.read bg (Memory.insert m a b) c = Memory.read bg m c := by
  induction m with
  | nil => simp [Memory.insert, Memory.read, Ne.symm h]
  | cons d rest ih =>
    obtain ⟨k, v⟩ := d
    simp only [Memory.insert]
    split
    · simp [Memory.read, Ne.symm h]
    · split
      · rename_i h1 h2
        subst h2
        simp [Memory.read, Ne.symm h]
      · simp [Memory.read, ih]

theorem Memory.read_erase_same (bg : Byte) (m : Memory) (a : Nat) :
    Memory.read bg (m.filter (fun c => decide (c.1 ≠ a))) a = bg := by
  induction m with
  | nil => rfl
  | cons d rest ih =>
    obtain ⟨k, v⟩ := d
    by_cases h : k = a <;> simp_all [Memory.read]

theorem Memory.read_erase_other (bg : Byte) (m : Memory) (a c : Nat) (h : c ≠ a) :
    Memory.read bg (m.filter (fun d => decide (d.1 ≠ a))) c = Memory.read bg m c := by
  induction m with
  | nil => rfl
  | cons d rest ih =>
    obtain ⟨k, v⟩ := d
    by_cases hk : k = a
    · subst hk
      simp_all [Memory.read, Ne.symm h]
    · by_cases hc : k = c <;> simp_all [Memory.read]

/-- A read after a write to the same index gives the byte written. -/
@[simp] theorem Memory.read_write_same (bg : Byte) (m : Memory) (a : Nat) (b : Byte) :
    Memory.read bg (Memory.write bg m a b) a = b := by
  unfold Memory.write
  split
  · rename_i h
    rw [h]
    exact Memory.read_erase_same bg m a
  · exact Memory.read_insert_same bg m a b

/-- A write leaves every other index alone. -/
theorem Memory.read_write_other (bg : Byte) (m : Memory) (a c : Nat) (b : Byte) (h : c ≠ a) :
    Memory.read bg (Memory.write bg m a b) c = Memory.read bg m c := by
  unfold Memory.write
  split
  · exact Memory.read_erase_other bg m a c h
  · exact Memory.read_insert_other bg m a c b h

/-- What a read returns after a write. -/
theorem Memory.read_write (bg : Byte) (m : Memory) (a c : Nat) (b : Byte) :
    Memory.read bg (Memory.write bg m a b) c = if c = a then b else Memory.read bg m c := by
  split
  · rename_i h
    rw [h, Memory.read_write_same]
  · rename_i h
    exact Memory.read_write_other bg m a c b h

theorem Memory.read_append (bg : Byte) (m n : Memory) (a : Nat) (h : ∀ c ∈ m, c.1 ≠ a) :
    Memory.read bg (m ++ n) a = Memory.read bg n a := by
  induction m with
  | nil => rfl
  | cons d rest ih =>
    obtain ⟨k, v⟩ := d
    have hk : k ≠ a := h (k, v) (by simp)
    simp only [List.cons_append, Memory.read, if_neg hk]
    exact ih (fun c hc => h c (by simp [hc]))

theorem Memory.cells_bounds (bg : Byte) (bs : List Byte) (i : Nat) :
    ∀ c ∈ Memory.cells bg i bs, i ≤ c.1 ∧ c.1 < i + bs.length := by
  induction bs generalizing i with
  | nil => simp [Memory.cells]
  | cons b bs ih =>
    intro c hc
    simp only [Memory.cells] at hc
    have step : ∀ c ∈ Memory.cells bg (i + 1) bs, i ≤ c.1 ∧ c.1 < i + (b :: bs).length := by
      intro c hc
      have := ih (i + 1) c hc
      simp only [List.length_cons]
      omega
    split at hc
    · exact step c hc
    · rcases List.mem_cons.mp hc with h | h
      · subst h
        simp
      · exact step c h

theorem Memory.read_cells (bg : Byte) (bs : List Byte) (i j : Nat) (n : Memory) (h : j < bs.length) :
    Memory.read bg (Memory.cells bg i bs ++ n.filter (fun c => decide (i + bs.length ≤ c.1))) (i + j) = bs[j] := by
  induction bs generalizing i j with
  | nil => simp at h
  | cons b bs ih =>
    have tail : ∀ k, k < bs.length →
        Memory.read bg (Memory.cells bg (i + 1) bs ++ n.filter (fun c => decide (i + (b :: bs).length ≤ c.1)))
          (i + 1 + k) = bs[k]! := by
      intro k hk
      have := ih (i + 1) k hk
      rw [show i + 1 + bs.length = i + (b :: bs).length by simp; omega] at this
      rw [this, getElem!_pos bs k hk]
    have skip : Memory.read bg (Memory.cells bg (i + 1) bs ++
        n.filter (fun c => decide (i + (b :: bs).length ≤ c.1))) i = bg := by
      rw [Memory.read_append]
      · clear ih tail h
        induction n with
        | nil => rfl
        | cons d rest ihn =>
          obtain ⟨k, v⟩ := d
          by_cases hk : i + (b :: bs).length ≤ k
          · have : k ≠ i := by simp at hk; omega
            simp only [List.filter_cons, decide_eq_true_eq, if_pos hk, Memory.read, if_neg this]
            exact ihn
          · simp only [List.filter_cons, decide_eq_true_eq, if_neg hk]
            exact ihn
      · intro c hc
        have := Memory.cells_bounds bg bs (i + 1) c hc
        omega
    simp only [Memory.cells]
    cases j with
    | zero =>
      simp only [Nat.add_zero, List.getElem_cons_zero]
      split
      · rename_i hb
        rw [skip, hb]
      · simp [Memory.read]
    | succ k =>
      have hk : k < bs.length := by simpa using h
      have tk := tail k hk
      rw [getElem!_pos bs k hk] at tk
      have e : i + (k + 1) = i + 1 + k := by omega
      simp only [List.getElem_cons_succ, e]
      split
      · exact tk
      · have : i ≠ i + 1 + k := by omega
        simp only [List.cons_append, Memory.read, if_neg this]
        exact tk

/-- What a read returns inside a run of bytes just written. -/
theorem Memory.read_fill_inside (bg : Byte) (m : Memory) (bs : List Byte) (i : Nat) (h : i < bs.length) :
    Memory.read bg (Memory.fill bg m bs) i = bs[i] := by
  have := Memory.read_cells bg bs 0 i m h
  simpa [Memory.fill] using this

/-- A run of bytes leaves every later index alone. -/
theorem Memory.read_fill_outside (bg : Byte) (m : Memory) (bs : List Byte) (i : Nat) (h : bs.length ≤ i) :
    Memory.read bg (Memory.fill bg m bs) i = Memory.read bg m i := by
  unfold Memory.fill
  rw [Memory.read_append]
  · induction m with
    | nil => rfl
    | cons d rest ih =>
      obtain ⟨k, v⟩ := d
      by_cases hk : bs.length ≤ k
      · simp only [List.filter_cons, decide_eq_true_eq, if_pos hk, Memory.read, ih]
      · have : k ≠ i := by omega
        simp only [List.filter_cons, decide_eq_true_eq, if_neg hk, Memory.read, if_neg this]
        exact ih
  · intro c hc
    have := Memory.cells_bounds bg bs 0 c hc
    omega

theorem Memory.wfFrom_mono (bg : Byte) (size lo lo' : Nat) (m : Memory) (hlo : lo' ≤ lo)
    (h : Memory.wfFrom bg size lo m = true) : Memory.wfFrom bg size lo' m = true := by
  cases m with
  | nil => rfl
  | cons d rest =>
    obtain ⟨k, v⟩ := d
    simp only [Memory.wfFrom, Bool.and_eq_true, decide_eq_true_eq] at h ⊢
    exact ⟨⟨⟨by omega, h.1.1.2⟩, h.1.2⟩, h.2⟩

theorem Memory.wfFrom_filter (bg : Byte) (size lo : Nat) (m : Memory) (p : Host.Cell → Bool)
    (h : Memory.wfFrom bg size lo m = true) : Memory.wfFrom bg size lo (m.filter p) = true := by
  induction m generalizing lo with
  | nil => rfl
  | cons d rest ih =>
    obtain ⟨k, v⟩ := d
    simp only [Memory.wfFrom, Bool.and_eq_true, decide_eq_true_eq] at h
    simp only [List.filter_cons]
    split
    · simp only [Memory.wfFrom, Bool.and_eq_true, decide_eq_true_eq]
      exact ⟨h.1, ih (k + 1) h.2⟩
    · exact Memory.wfFrom_mono bg size (k + 1) lo _ (by omega) (ih (k + 1) h.2)

theorem Memory.wfFrom_insert (bg : Byte) (size lo : Nat) (m : Memory) (a : Nat) (b : Byte) (hlo : lo ≤ a)
    (ha : a < size) (hb : b ≠ bg) (h : Memory.wfFrom bg size lo m = true) :
    Memory.wfFrom bg size lo (Memory.insert m a b) = true := by
  induction m generalizing lo with
  | nil => simp [Memory.insert, Memory.wfFrom, hlo, ha, hb]
  | cons d rest ih =>
    obtain ⟨k, v⟩ := d
    simp only [Memory.wfFrom, Bool.and_eq_true, decide_eq_true_eq] at h
    simp only [Memory.insert]
    split
    · rename_i hak
      simp only [Memory.wfFrom, Bool.and_eq_true, decide_eq_true_eq]
      exact ⟨⟨⟨hlo, ha⟩, hb⟩, ⟨⟨⟨by omega, h.1.1.2⟩, h.1.2⟩, h.2⟩⟩
    · split
      · rename_i hak
        subst hak
        simp only [Memory.wfFrom, Bool.and_eq_true, decide_eq_true_eq]
        exact ⟨⟨⟨hlo, ha⟩, hb⟩, h.2⟩
      · simp only [Memory.wfFrom, Bool.and_eq_true, decide_eq_true_eq]
        exact ⟨h.1, ih (k + 1) (by omega) h.2⟩

/-- A write inside the store keeps its canonical form. -/
theorem Memory.wf_write (bg : Byte) (size : Nat) (m : Memory) (a : Nat) (b : Byte) (ha : a < size)
    (h : Memory.wf bg size m = true) : Memory.wf bg size (Memory.write bg m a b) = true := by
  unfold Memory.write
  split
  · exact Memory.wfFrom_filter bg size 0 m _ h
  · rename_i hb
    exact Memory.wfFrom_insert bg size 0 m a b (Nat.zero_le a) ha hb h

theorem Memory.wfFrom_cells (bg : Byte) (size i : Nat) (bs : List Byte) (m : Memory) (hs : i + bs.length ≤ size)
    (h : Memory.wfFrom bg size (i + bs.length) m = true) :
    Memory.wfFrom bg size i (Memory.cells bg i bs ++ m) = true := by
  induction bs generalizing i with
  | nil => exact h
  | cons b bs ih =>
    simp only [List.length_cons] at hs h
    have t : Memory.wfFrom bg size (i + 1) (Memory.cells bg (i + 1) bs ++ m) = true :=
      ih (i + 1) (by omega) (by rw [show i + 1 + bs.length = i + (bs.length + 1) by omega]; exact h)
    simp only [Memory.cells]
    split
    · exact Memory.wfFrom_mono bg size (i + 1) i _ (by omega) t
    · rename_i hb
      simp only [List.cons_append, Memory.wfFrom, Bool.and_eq_true, decide_eq_true_eq]
      exact ⟨⟨⟨le_refl i, by omega⟩, hb⟩, t⟩

theorem Memory.wfFrom_above (bg : Byte) (size lo n : Nat) (m : Memory) (h : Memory.wfFrom bg size lo m = true) :
    Memory.wfFrom bg size n (m.filter (fun c => decide (n ≤ c.1))) = true := by
  induction m generalizing lo with
  | nil => rfl
  | cons d rest ih =>
    obtain ⟨k, v⟩ := d
    simp only [Memory.wfFrom, Bool.and_eq_true, decide_eq_true_eq] at h
    simp only [List.filter_cons]
    split
    · rename_i hk
      simp only [decide_eq_true_eq] at hk
      simp only [Memory.wfFrom, Bool.and_eq_true, decide_eq_true_eq]
      exact ⟨⟨⟨hk, h.1.1.2⟩, h.1.2⟩, Memory.wfFrom_filter bg size (k + 1) rest _ h.2⟩
    · exact ih (k + 1) h.2

/-- A run of bytes that fits in the store keeps its canonical form. -/
theorem Memory.wf_fill (bg : Byte) (size : Nat) (m : Memory) (bs : List Byte) (hs : bs.length ≤ size)
    (h : Memory.wf bg size m = true) : Memory.wf bg size (Memory.fill bg m bs) = true := by
  unfold Memory.wf Memory.fill
  refine Memory.wfFrom_cells bg size 0 bs _ (by omega) ?_
  rw [Nat.zero_add]
  exact Memory.wfFrom_above bg size 0 bs.length m h

/-- Outside the store a canonical memory reads as its background byte. -/
theorem Memory.read_beyond (bg : Byte) (size : Nat) (m : Memory) (a : Nat) (ha : size ≤ a)
    (h : Memory.wf bg size m = true) : Memory.read bg m a = bg := by
  unfold Memory.wf at h
  generalize (0 : Nat) = lo at h
  induction m generalizing lo with
  | nil => rfl
  | cons d rest ih =>
    obtain ⟨k, v⟩ := d
    simp only [Memory.wfFrom, Bool.and_eq_true, decide_eq_true_eq] at h
    have : k ≠ a := by omega
    simp only [Memory.read, if_neg this]
    exact ih (k + 1) h.2

/-- The loops of WRITE keep TEXT's canonical form for the two rows there are. -/
theorem wf_copyText (row : Nat) (hr : row < 2) (bs : List Byte) (w : WriteCursor)
    (h : Memory.wf textBg Config.textSize w.text = true) :
    Memory.wf textBg Config.textSize (copyText row bs w).text = true := by
  induction bs generalizing w with
  | nil => exact h
  | cons b bs ih =>
    simp only [copyText]
    split
    · exact ih _ (Memory.wf_write _ _ _ _ _ (by unfold cellIdx Config.textSize; omega) h)
    · exact h

theorem wf_padText (row : Nat) (hr : row < 2) (text : Memory) (col m : Nat)
    (h : Memory.wf textBg Config.textSize text = true) :
    Memory.wf textBg Config.textSize (padText row text col m) = true := by
  induction m generalizing text col with
  | zero => exact h
  | succ m ih =>
    simp only [padText]
    split
    · exact ih _ _ (Memory.wf_write _ _ _ _ _ (by unfold cellIdx Config.textSize; omega) h)
    · exact h

theorem wf_writeResult (text : Memory) (row col minw : Nat) (bs : List Byte) (hr : row < 2)
    (h : Memory.wf textBg Config.textSize text = true) :
    Memory.wf textBg Config.textSize (writeResult text row col minw bs) = true :=
  wf_padText row hr _ _ _ (wf_copyText row hr bs _ h)

/-- At reset the three stores have the canonical form. -/
theorem reset_stores_wf :
    Memory.wf textBg Config.textSize State.reset.text = true ∧
      Memory.wf txbufBg Config.txbufSize State.reset.txbuf = true ∧
        Memory.wf stageBg Config.stageSize State.reset.stage = true := by
  decide

end Sys2Proof.Machine
end

