-- ==== Sys2Proof/Laws/State.lean ====
section
/-! SUPPORT. What each named operation leaves in each field: one lemma per field per update, each true by rfl, so that no
proof unfolds a record update. -/

namespace Sys2Proof.Machine

section
variable (s : State)

/-! `traced` -/

@[simp] theorem State.traced_phase (e : WireEvent) : (s.traced e).phase = s.phase := rfl
@[simp] theorem State.traced_istep (e : WireEvent) : (s.traced e).istep = s.istep := rfl
@[simp] theorem State.traced_probeA (e : WireEvent) : (s.traced e).probeA = s.probeA := rfl
@[simp] theorem State.traced_tries (e : WireEvent) : (s.traced e).tries = s.tries := rfl
@[simp] theorem State.traced_bstep (e : WireEvent) : (s.traced e).bstep = s.bstep := rfl
@[simp] theorem State.traced_w0 (e : WireEvent) : (s.traced e).w0 = s.w0 := rfl
@[simp] theorem State.traced_waitAt (e : WireEvent) : (s.traced e).waitAt = s.waitAt := rfl
@[simp] theorem State.traced_delayEnd (e : WireEvent) : (s.traced e).delayEnd = s.delayEnd := rfl
@[simp] theorem State.traced_probeRest (e : WireEvent) : (s.traced e).probeRest = s.probeRest := rfl
@[simp] theorem State.traced_txAddr (e : WireEvent) : (s.traced e).txAddr = s.txAddr := rfl
@[simp] theorem State.traced_txBytes (e : WireEvent) : (s.traced e).txBytes = s.txBytes := rfl
@[simp] theorem State.traced_txSpeed (e : WireEvent) : (s.traced e).txSpeed = s.txSpeed := rfl
@[simp] theorem State.traced_text (e : WireEvent) : (s.traced e).text = s.text := rfl
@[simp] theorem State.traced_bl (e : WireEvent) : (s.traced e).bl = s.bl := rfl
@[simp] theorem State.traced_txbuf (e : WireEvent) : (s.traced e).txbuf = s.txbuf := rfl
@[simp] theorem State.traced_stage (e : WireEvent) : (s.traced e).stage = s.stage := rfl
@[simp] theorem State.traced_refreshCount (e : WireEvent) : (s.traced e).refreshCount = s.refreshCount := rfl
@[simp] theorem State.traced_devAddr (e : WireEvent) : (s.traced e).devAddr = s.devAddr := rfl
@[simp] theorem State.traced_oledCyc (e : WireEvent) : (s.traced e).oledCyc = s.oledCyc := rfl
@[simp] theorem State.traced_wdtArmed (e : WireEvent) : (s.traced e).wdtArmed = s.wdtArmed := rfl
@[simp] theorem State.traced_wdtCnt (e : WireEvent) : (s.traced e).wdtCnt = s.wdtCnt := rfl
@[simp] theorem State.traced_toPend (e : WireEvent) : (s.traced e).toPend = s.toPend := rfl
@[simp] theorem State.traced_chEn (e : WireEvent) : (s.traced e).chEn = s.chEn := rfl
@[simp] theorem State.traced_chPtr (e : WireEvent) : (s.traced e).chPtr = s.chPtr := rfl
@[simp] theorem State.traced_chCnt (e : WireEvent) : (s.traced e).chCnt = s.chCnt := rfl
@[simp] theorem State.traced_tcPend (e : WireEvent) : (s.traced e).tcPend = s.tcPend := rfl
@[simp] theorem State.traced_injPend (e : WireEvent) : (s.traced e).injPend = s.injPend := rfl
@[simp] theorem State.traced_evtEn (e : WireEvent) : (s.traced e).evtEn = s.evtEn := rfl
@[simp] theorem State.traced_errEn (e : WireEvent) : (s.traced e).errEn = s.errEn := rfl
@[simp] theorem State.traced_syncBusy (e : WireEvent) : (s.traced e).syncBusy = s.syncBusy := rfl
@[simp] theorem State.traced_syncSeen (e : WireEvent) : (s.traced e).syncSeen = s.syncSeen := rfl
@[simp] theorem State.traced_initFailed (e : WireEvent) : (s.traced e).initFailed = s.initFailed := rfl
@[simp] theorem State.traced_failCause (e : WireEvent) : (s.traced e).failCause = s.failCause := rfl
@[simp] theorem State.traced_busDead (e : WireEvent) : (s.traced e).busDead = s.busDead := rfl
@[simp] theorem State.traced_wedgeSeen (e : WireEvent) : (s.traced e).wedgeSeen = s.wedgeSeen := rfl
@[simp] theorem State.traced_wedgeStuck (e : WireEvent) : (s.traced e).wedgeStuck = s.wedgeStuck := rfl
@[simp] theorem State.traced_cmdErr (e : WireEvent) : (s.traced e).cmdErr = s.cmdErr := rfl
@[simp] theorem State.traced_sclMode (e : WireEvent) : (s.traced e).sclMode = s.sclMode := rfl
@[simp] theorem State.traced_sclLvl (e : WireEvent) : (s.traced e).sclLvl = s.sclLvl := rfl
@[simp] theorem State.traced_sdaMode (e : WireEvent) : (s.traced e).sdaMode = s.sdaMode := rfl
@[simp] theorem State.traced_sdaLvl (e : WireEvent) : (s.traced e).sdaLvl = s.sdaLvl := rfl
@[simp] theorem State.traced_faultCount (e : WireEvent) : (s.traced e).faultCount = s.faultCount := rfl
@[simp] theorem State.traced_lastErrRaw (e : WireEvent) : (s.traced e).lastErrRaw = s.lastErrRaw := rfl
@[simp] theorem State.traced_lastErrCause (e : WireEvent) : (s.traced e).lastErrCause = s.lastErrCause := rfl
@[simp] theorem State.traced_lastEvt (e : WireEvent) : (s.traced e).lastEvt = s.lastEvt := rfl
@[simp] theorem State.traced_link (e : WireEvent) : (s.traced e).link = s.link := rfl
@[simp] theorem State.traced_wire (e : WireEvent) : (s.traced e).wire = s.wire ++ [e] := rfl
@[simp] theorem State.traced_now (e : WireEvent) : (s.traced e).now = s.now := rfl
@[simp] theorem State.traced_busScl (e : WireEvent) : (s.traced e).busScl = s.busScl := rfl
@[simp] theorem State.traced_busSda (e : WireEvent) : (s.traced e).busSda = s.busSda := rfl
@[simp] theorem State.traced_hostProg (e : WireEvent) : (s.traced e).hostProg = s.hostProg := rfl
@[simp] theorem State.traced_hostData (e : WireEvent) : (s.traced e).hostData = s.hostData := rfl
@[simp] theorem State.traced_sched (e : WireEvent) : (s.traced e).sched = s.sched := rfl
@[simp] theorem State.traced_freeIdx (e : WireEvent) : (s.traced e).freeIdx = s.freeIdx := rfl
@[simp] theorem State.traced_params (e : WireEvent) : (s.traced e).params = s.params := rfl

/-! `lReset` -/

@[simp] theorem State.lReset_phase : (s.lReset).phase = s.phase := rfl
@[simp] theorem State.lReset_istep : (s.lReset).istep = s.istep := rfl
@[simp] theorem State.lReset_probeA : (s.lReset).probeA = s.probeA := rfl
@[simp] theorem State.lReset_tries : (s.lReset).tries = s.tries := rfl
@[simp] theorem State.lReset_bstep : (s.lReset).bstep = s.bstep := rfl
@[simp] theorem State.lReset_w0 : (s.lReset).w0 = s.w0 := rfl
@[simp] theorem State.lReset_waitAt : (s.lReset).waitAt = s.waitAt := rfl
@[simp] theorem State.lReset_delayEnd : (s.lReset).delayEnd = s.delayEnd := rfl
@[simp] theorem State.lReset_probeRest : (s.lReset).probeRest = s.probeRest := rfl
@[simp] theorem State.lReset_txAddr : (s.lReset).txAddr = s.txAddr := rfl
@[simp] theorem State.lReset_txBytes : (s.lReset).txBytes = s.txBytes := rfl
@[simp] theorem State.lReset_txSpeed : (s.lReset).txSpeed = s.txSpeed := rfl
@[simp] theorem State.lReset_text : (s.lReset).text = s.text := rfl
@[simp] theorem State.lReset_bl : (s.lReset).bl = s.bl := rfl
@[simp] theorem State.lReset_txbuf : (s.lReset).txbuf = s.txbuf := rfl
@[simp] theorem State.lReset_stage : (s.lReset).stage = s.stage := rfl
@[simp] theorem State.lReset_refreshCount : (s.lReset).refreshCount = s.refreshCount := rfl
@[simp] theorem State.lReset_devAddr : (s.lReset).devAddr = s.devAddr := rfl
@[simp] theorem State.lReset_oledCyc : (s.lReset).oledCyc = s.oledCyc := rfl
@[simp] theorem State.lReset_wdtArmed : (s.lReset).wdtArmed = s.wdtArmed := rfl
@[simp] theorem State.lReset_wdtCnt : (s.lReset).wdtCnt = s.wdtCnt := rfl
@[simp] theorem State.lReset_toPend : (s.lReset).toPend = s.toPend := rfl
@[simp] theorem State.lReset_chEn : (s.lReset).chEn = s.chEn := rfl
@[simp] theorem State.lReset_chPtr : (s.lReset).chPtr = s.chPtr := rfl
@[simp] theorem State.lReset_chCnt : (s.lReset).chCnt = s.chCnt := rfl
@[simp] theorem State.lReset_tcPend : (s.lReset).tcPend = s.tcPend := rfl
@[simp] theorem State.lReset_injPend : (s.lReset).injPend = s.injPend := rfl
@[simp] theorem State.lReset_evtEn : (s.lReset).evtEn = s.evtEn := rfl
@[simp] theorem State.lReset_errEn : (s.lReset).errEn = s.errEn := rfl
@[simp] theorem State.lReset_syncBusy : (s.lReset).syncBusy = s.syncBusy := rfl
@[simp] theorem State.lReset_syncSeen : (s.lReset).syncSeen = s.syncSeen := rfl
@[simp] theorem State.lReset_initFailed : (s.lReset).initFailed = s.initFailed := rfl
@[simp] theorem State.lReset_failCause : (s.lReset).failCause = s.failCause := rfl
@[simp] theorem State.lReset_busDead : (s.lReset).busDead = s.busDead := rfl
@[simp] theorem State.lReset_wedgeSeen : (s.lReset).wedgeSeen = s.wedgeSeen := rfl
@[simp] theorem State.lReset_wedgeStuck : (s.lReset).wedgeStuck = s.wedgeStuck := rfl
@[simp] theorem State.lReset_cmdErr : (s.lReset).cmdErr = s.cmdErr := rfl
@[simp] theorem State.lReset_sclMode : (s.lReset).sclMode = s.sclMode := rfl
@[simp] theorem State.lReset_sclLvl : (s.lReset).sclLvl = s.sclLvl := rfl
@[simp] theorem State.lReset_sdaMode : (s.lReset).sdaMode = s.sdaMode := rfl
@[simp] theorem State.lReset_sdaLvl : (s.lReset).sdaLvl = s.sdaLvl := rfl
@[simp] theorem State.lReset_faultCount : (s.lReset).faultCount = s.faultCount := rfl
@[simp] theorem State.lReset_lastErrRaw : (s.lReset).lastErrRaw = s.lastErrRaw := rfl
@[simp] theorem State.lReset_lastErrCause : (s.lReset).lastErrCause = s.lastErrCause := rfl
@[simp] theorem State.lReset_lastEvt : (s.lReset).lastEvt = s.lastEvt := rfl
@[simp] theorem State.lReset_link : (s.lReset).link = s.link.cleared := rfl
@[simp] theorem State.lReset_wire : (s.lReset).wire = s.wire ++ abortTrace s.link.opn := rfl
@[simp] theorem State.lReset_now : (s.lReset).now = s.now := rfl
@[simp] theorem State.lReset_busScl : (s.lReset).busScl = s.busScl := rfl
@[simp] theorem State.lReset_busSda : (s.lReset).busSda = s.busSda := rfl
@[simp] theorem State.lReset_hostProg : (s.lReset).hostProg = s.hostProg := rfl
@[simp] theorem State.lReset_hostData : (s.lReset).hostData = s.hostData := rfl
@[simp] theorem State.lReset_sched : (s.lReset).sched = s.sched := rfl
@[simp] theorem State.lReset_freeIdx : (s.lReset).freeIdx = s.freeIdx := rfl
@[simp] theorem State.lReset_params : (s.lReset).params = s.params := rfl

/-! `lConfig` -/

@[simp] theorem State.lConfig_phase (sp : Speed) : (s.lConfig sp).phase = s.phase := rfl
@[simp] theorem State.lConfig_istep (sp : Speed) : (s.lConfig sp).istep = s.istep := rfl
@[simp] theorem State.lConfig_probeA (sp : Speed) : (s.lConfig sp).probeA = s.probeA := rfl
@[simp] theorem State.lConfig_tries (sp : Speed) : (s.lConfig sp).tries = s.tries := rfl
@[simp] theorem State.lConfig_bstep (sp : Speed) : (s.lConfig sp).bstep = s.bstep := rfl
@[simp] theorem State.lConfig_w0 (sp : Speed) : (s.lConfig sp).w0 = s.w0 := rfl
@[simp] theorem State.lConfig_waitAt (sp : Speed) : (s.lConfig sp).waitAt = s.waitAt := rfl
@[simp] theorem State.lConfig_delayEnd (sp : Speed) : (s.lConfig sp).delayEnd = s.delayEnd := rfl
@[simp] theorem State.lConfig_probeRest (sp : Speed) : (s.lConfig sp).probeRest = s.probeRest := rfl
@[simp] theorem State.lConfig_txAddr (sp : Speed) : (s.lConfig sp).txAddr = s.txAddr := rfl
@[simp] theorem State.lConfig_txBytes (sp : Speed) : (s.lConfig sp).txBytes = s.txBytes := rfl
@[simp] theorem State.lConfig_txSpeed (sp : Speed) : (s.lConfig sp).txSpeed = s.txSpeed := rfl
@[simp] theorem State.lConfig_text (sp : Speed) : (s.lConfig sp).text = s.text := rfl
@[simp] theorem State.lConfig_bl (sp : Speed) : (s.lConfig sp).bl = s.bl := rfl
@[simp] theorem State.lConfig_txbuf (sp : Speed) : (s.lConfig sp).txbuf = s.txbuf := rfl
@[simp] theorem State.lConfig_stage (sp : Speed) : (s.lConfig sp).stage = s.stage := rfl
@[simp] theorem State.lConfig_refreshCount (sp : Speed) : (s.lConfig sp).refreshCount = s.refreshCount := rfl
@[simp] theorem State.lConfig_devAddr (sp : Speed) : (s.lConfig sp).devAddr = s.devAddr := rfl
@[simp] theorem State.lConfig_oledCyc (sp : Speed) : (s.lConfig sp).oledCyc = s.oledCyc := rfl
@[simp] theorem State.lConfig_wdtArmed (sp : Speed) : (s.lConfig sp).wdtArmed = s.wdtArmed := rfl
@[simp] theorem State.lConfig_wdtCnt (sp : Speed) : (s.lConfig sp).wdtCnt = s.wdtCnt := rfl
@[simp] theorem State.lConfig_toPend (sp : Speed) : (s.lConfig sp).toPend = s.toPend := rfl
@[simp] theorem State.lConfig_chEn (sp : Speed) : (s.lConfig sp).chEn = s.chEn := rfl
@[simp] theorem State.lConfig_chPtr (sp : Speed) : (s.lConfig sp).chPtr = s.chPtr := rfl
@[simp] theorem State.lConfig_chCnt (sp : Speed) : (s.lConfig sp).chCnt = s.chCnt := rfl
@[simp] theorem State.lConfig_tcPend (sp : Speed) : (s.lConfig sp).tcPend = s.tcPend := rfl
@[simp] theorem State.lConfig_injPend (sp : Speed) : (s.lConfig sp).injPend = s.injPend := rfl
@[simp] theorem State.lConfig_evtEn (sp : Speed) : (s.lConfig sp).evtEn = s.evtEn := rfl
@[simp] theorem State.lConfig_errEn (sp : Speed) : (s.lConfig sp).errEn = s.errEn := rfl
@[simp] theorem State.lConfig_syncBusy (sp : Speed) : (s.lConfig sp).syncBusy = s.syncBusy := rfl
@[simp] theorem State.lConfig_syncSeen (sp : Speed) : (s.lConfig sp).syncSeen = s.syncSeen := rfl
@[simp] theorem State.lConfig_initFailed (sp : Speed) : (s.lConfig sp).initFailed = s.initFailed := rfl
@[simp] theorem State.lConfig_failCause (sp : Speed) : (s.lConfig sp).failCause = s.failCause := rfl
@[simp] theorem State.lConfig_busDead (sp : Speed) : (s.lConfig sp).busDead = s.busDead := rfl
@[simp] theorem State.lConfig_wedgeSeen (sp : Speed) : (s.lConfig sp).wedgeSeen = s.wedgeSeen := rfl
@[simp] theorem State.lConfig_wedgeStuck (sp : Speed) : (s.lConfig sp).wedgeStuck = s.wedgeStuck := rfl
@[simp] theorem State.lConfig_cmdErr (sp : Speed) : (s.lConfig sp).cmdErr = s.cmdErr := rfl
@[simp] theorem State.lConfig_sclMode (sp : Speed) : (s.lConfig sp).sclMode = s.sclMode := rfl
@[simp] theorem State.lConfig_sclLvl (sp : Speed) : (s.lConfig sp).sclLvl = s.sclLvl := rfl
@[simp] theorem State.lConfig_sdaMode (sp : Speed) : (s.lConfig sp).sdaMode = s.sdaMode := rfl
@[simp] theorem State.lConfig_sdaLvl (sp : Speed) : (s.lConfig sp).sdaLvl = s.sdaLvl := rfl
@[simp] theorem State.lConfig_faultCount (sp : Speed) : (s.lConfig sp).faultCount = s.faultCount := rfl
@[simp] theorem State.lConfig_lastErrRaw (sp : Speed) : (s.lConfig sp).lastErrRaw = s.lastErrRaw := rfl
@[simp] theorem State.lConfig_lastErrCause (sp : Speed) : (s.lConfig sp).lastErrCause = s.lastErrCause := rfl
@[simp] theorem State.lConfig_lastEvt (sp : Speed) : (s.lConfig sp).lastEvt = s.lastEvt := rfl
@[simp] theorem State.lConfig_link (sp : Speed) : (s.lConfig sp).link = { s.link with speed := sp, en := true } := rfl
@[simp] theorem State.lConfig_wire (sp : Speed) : (s.lConfig sp).wire = s.wire := rfl
@[simp] theorem State.lConfig_now (sp : Speed) : (s.lConfig sp).now = s.now := rfl
@[simp] theorem State.lConfig_busScl (sp : Speed) : (s.lConfig sp).busScl = s.busScl := rfl
@[simp] theorem State.lConfig_busSda (sp : Speed) : (s.lConfig sp).busSda = s.busSda := rfl
@[simp] theorem State.lConfig_hostProg (sp : Speed) : (s.lConfig sp).hostProg = s.hostProg := rfl
@[simp] theorem State.lConfig_hostData (sp : Speed) : (s.lConfig sp).hostData = s.hostData := rfl
@[simp] theorem State.lConfig_sched (sp : Speed) : (s.lConfig sp).sched = s.sched := rfl
@[simp] theorem State.lConfig_freeIdx (sp : Speed) : (s.lConfig sp).freeIdx = s.freeIdx := rfl
@[simp] theorem State.lConfig_params (sp : Speed) : (s.lConfig sp).params = s.params := rfl

/-! `lStart` -/

@[simp] theorem State.lStart_phase : (s.lStart).phase = s.phase := rfl
@[simp] theorem State.lStart_istep : (s.lStart).istep = s.istep := rfl
@[simp] theorem State.lStart_probeA : (s.lStart).probeA = s.probeA := rfl
@[simp] theorem State.lStart_tries : (s.lStart).tries = s.tries := rfl
@[simp] theorem State.lStart_bstep : (s.lStart).bstep = s.bstep := rfl
@[simp] theorem State.lStart_w0 : (s.lStart).w0 = s.w0 := rfl
@[simp] theorem State.lStart_waitAt : (s.lStart).waitAt = s.waitAt := rfl
@[simp] theorem State.lStart_delayEnd : (s.lStart).delayEnd = s.delayEnd := rfl
@[simp] theorem State.lStart_probeRest : (s.lStart).probeRest = s.probeRest := rfl
@[simp] theorem State.lStart_txAddr : (s.lStart).txAddr = s.txAddr := rfl
@[simp] theorem State.lStart_txBytes : (s.lStart).txBytes = s.txBytes := rfl
@[simp] theorem State.lStart_txSpeed : (s.lStart).txSpeed = s.txSpeed := rfl
@[simp] theorem State.lStart_text : (s.lStart).text = s.text := rfl
@[simp] theorem State.lStart_bl : (s.lStart).bl = s.bl := rfl
@[simp] theorem State.lStart_txbuf : (s.lStart).txbuf = s.txbuf := rfl
@[simp] theorem State.lStart_stage : (s.lStart).stage = s.stage := rfl
@[simp] theorem State.lStart_refreshCount : (s.lStart).refreshCount = s.refreshCount := rfl
@[simp] theorem State.lStart_devAddr : (s.lStart).devAddr = s.devAddr := rfl
@[simp] theorem State.lStart_oledCyc : (s.lStart).oledCyc = s.oledCyc := rfl
@[simp] theorem State.lStart_wdtArmed : (s.lStart).wdtArmed = s.wdtArmed := rfl
@[simp] theorem State.lStart_wdtCnt : (s.lStart).wdtCnt = s.wdtCnt := rfl
@[simp] theorem State.lStart_toPend : (s.lStart).toPend = s.toPend := rfl
@[simp] theorem State.lStart_chEn : (s.lStart).chEn = s.chEn := rfl
@[simp] theorem State.lStart_chPtr : (s.lStart).chPtr = s.chPtr := rfl
@[simp] theorem State.lStart_chCnt : (s.lStart).chCnt = s.chCnt := rfl
@[simp] theorem State.lStart_tcPend : (s.lStart).tcPend = s.tcPend := rfl
@[simp] theorem State.lStart_injPend : (s.lStart).injPend = s.injPend := rfl
@[simp] theorem State.lStart_evtEn : (s.lStart).evtEn = s.evtEn := rfl
@[simp] theorem State.lStart_errEn : (s.lStart).errEn = s.errEn := rfl
@[simp] theorem State.lStart_syncBusy : (s.lStart).syncBusy = s.syncBusy := rfl
@[simp] theorem State.lStart_syncSeen : (s.lStart).syncSeen = s.syncSeen := rfl
@[simp] theorem State.lStart_initFailed : (s.lStart).initFailed = s.initFailed := rfl
@[simp] theorem State.lStart_failCause : (s.lStart).failCause = s.failCause := rfl
@[simp] theorem State.lStart_busDead : (s.lStart).busDead = s.busDead := rfl
@[simp] theorem State.lStart_wedgeSeen : (s.lStart).wedgeSeen = s.wedgeSeen := rfl
@[simp] theorem State.lStart_wedgeStuck : (s.lStart).wedgeStuck = s.wedgeStuck := rfl
@[simp] theorem State.lStart_cmdErr : (s.lStart).cmdErr = s.cmdErr := rfl
@[simp] theorem State.lStart_sclMode : (s.lStart).sclMode = s.sclMode := rfl
@[simp] theorem State.lStart_sclLvl : (s.lStart).sclLvl = s.sclLvl := rfl
@[simp] theorem State.lStart_sdaMode : (s.lStart).sdaMode = s.sdaMode := rfl
@[simp] theorem State.lStart_sdaLvl : (s.lStart).sdaLvl = s.sdaLvl := rfl
@[simp] theorem State.lStart_faultCount : (s.lStart).faultCount = s.faultCount := rfl
@[simp] theorem State.lStart_lastErrRaw : (s.lStart).lastErrRaw = s.lastErrRaw := rfl
@[simp] theorem State.lStart_lastErrCause : (s.lStart).lastErrCause = s.lastErrCause := rfl
@[simp] theorem State.lStart_lastEvt : (s.lStart).lastEvt = s.lastEvt := rfl
@[simp] theorem State.lStart_link : (s.lStart).link = { s.link with startReq := true } := rfl
@[simp] theorem State.lStart_wire : (s.lStart).wire = s.wire := rfl
@[simp] theorem State.lStart_now : (s.lStart).now = s.now := rfl
@[simp] theorem State.lStart_busScl : (s.lStart).busScl = s.busScl := rfl
@[simp] theorem State.lStart_busSda : (s.lStart).busSda = s.busSda := rfl
@[simp] theorem State.lStart_hostProg : (s.lStart).hostProg = s.hostProg := rfl
@[simp] theorem State.lStart_hostData : (s.lStart).hostData = s.hostData := rfl
@[simp] theorem State.lStart_sched : (s.lStart).sched = s.sched := rfl
@[simp] theorem State.lStart_freeIdx : (s.lStart).freeIdx = s.freeIdx := rfl
@[simp] theorem State.lStart_params : (s.lStart).params = s.params := rfl

/-! `lAddr` -/

@[simp] theorem State.lAddr_phase (b : Byte) : (s.lAddr b).phase = s.phase := rfl
@[simp] theorem State.lAddr_istep (b : Byte) : (s.lAddr b).istep = s.istep := rfl
@[simp] theorem State.lAddr_probeA (b : Byte) : (s.lAddr b).probeA = s.probeA := rfl
@[simp] theorem State.lAddr_tries (b : Byte) : (s.lAddr b).tries = s.tries := rfl
@[simp] theorem State.lAddr_bstep (b : Byte) : (s.lAddr b).bstep = s.bstep := rfl
@[simp] theorem State.lAddr_w0 (b : Byte) : (s.lAddr b).w0 = s.w0 := rfl
@[simp] theorem State.lAddr_waitAt (b : Byte) : (s.lAddr b).waitAt = s.waitAt := rfl
@[simp] theorem State.lAddr_delayEnd (b : Byte) : (s.lAddr b).delayEnd = s.delayEnd := rfl
@[simp] theorem State.lAddr_probeRest (b : Byte) : (s.lAddr b).probeRest = s.probeRest := rfl
@[simp] theorem State.lAddr_txAddr (b : Byte) : (s.lAddr b).txAddr = s.txAddr := rfl
@[simp] theorem State.lAddr_txBytes (b : Byte) : (s.lAddr b).txBytes = s.txBytes := rfl
@[simp] theorem State.lAddr_txSpeed (b : Byte) : (s.lAddr b).txSpeed = s.txSpeed := rfl
@[simp] theorem State.lAddr_text (b : Byte) : (s.lAddr b).text = s.text := rfl
@[simp] theorem State.lAddr_bl (b : Byte) : (s.lAddr b).bl = s.bl := rfl
@[simp] theorem State.lAddr_txbuf (b : Byte) : (s.lAddr b).txbuf = s.txbuf := rfl
@[simp] theorem State.lAddr_stage (b : Byte) : (s.lAddr b).stage = s.stage := rfl
@[simp] theorem State.lAddr_refreshCount (b : Byte) : (s.lAddr b).refreshCount = s.refreshCount := rfl
@[simp] theorem State.lAddr_devAddr (b : Byte) : (s.lAddr b).devAddr = s.devAddr := rfl
@[simp] theorem State.lAddr_oledCyc (b : Byte) : (s.lAddr b).oledCyc = s.oledCyc := rfl
@[simp] theorem State.lAddr_wdtArmed (b : Byte) : (s.lAddr b).wdtArmed = s.wdtArmed := rfl
@[simp] theorem State.lAddr_wdtCnt (b : Byte) : (s.lAddr b).wdtCnt = s.wdtCnt := rfl
@[simp] theorem State.lAddr_toPend (b : Byte) : (s.lAddr b).toPend = s.toPend := rfl
@[simp] theorem State.lAddr_chEn (b : Byte) : (s.lAddr b).chEn = s.chEn := rfl
@[simp] theorem State.lAddr_chPtr (b : Byte) : (s.lAddr b).chPtr = s.chPtr := rfl
@[simp] theorem State.lAddr_chCnt (b : Byte) : (s.lAddr b).chCnt = s.chCnt := rfl
@[simp] theorem State.lAddr_tcPend (b : Byte) : (s.lAddr b).tcPend = s.tcPend := rfl
@[simp] theorem State.lAddr_injPend (b : Byte) : (s.lAddr b).injPend = s.injPend := rfl
@[simp] theorem State.lAddr_evtEn (b : Byte) : (s.lAddr b).evtEn = s.evtEn := rfl
@[simp] theorem State.lAddr_errEn (b : Byte) : (s.lAddr b).errEn = s.errEn := rfl
@[simp] theorem State.lAddr_syncBusy (b : Byte) : (s.lAddr b).syncBusy = s.syncBusy := rfl
@[simp] theorem State.lAddr_syncSeen (b : Byte) : (s.lAddr b).syncSeen = s.syncSeen := rfl
@[simp] theorem State.lAddr_initFailed (b : Byte) : (s.lAddr b).initFailed = s.initFailed := rfl
@[simp] theorem State.lAddr_failCause (b : Byte) : (s.lAddr b).failCause = s.failCause := rfl
@[simp] theorem State.lAddr_busDead (b : Byte) : (s.lAddr b).busDead = s.busDead := rfl
@[simp] theorem State.lAddr_wedgeSeen (b : Byte) : (s.lAddr b).wedgeSeen = s.wedgeSeen := rfl
@[simp] theorem State.lAddr_wedgeStuck (b : Byte) : (s.lAddr b).wedgeStuck = s.wedgeStuck := rfl
@[simp] theorem State.lAddr_cmdErr (b : Byte) : (s.lAddr b).cmdErr = s.cmdErr := rfl
@[simp] theorem State.lAddr_sclMode (b : Byte) : (s.lAddr b).sclMode = s.sclMode := rfl
@[simp] theorem State.lAddr_sclLvl (b : Byte) : (s.lAddr b).sclLvl = s.sclLvl := rfl
@[simp] theorem State.lAddr_sdaMode (b : Byte) : (s.lAddr b).sdaMode = s.sdaMode := rfl
@[simp] theorem State.lAddr_sdaLvl (b : Byte) : (s.lAddr b).sdaLvl = s.sdaLvl := rfl
@[simp] theorem State.lAddr_faultCount (b : Byte) : (s.lAddr b).faultCount = s.faultCount := rfl
@[simp] theorem State.lAddr_lastErrRaw (b : Byte) : (s.lAddr b).lastErrRaw = s.lastErrRaw := rfl
@[simp] theorem State.lAddr_lastErrCause (b : Byte) : (s.lAddr b).lastErrCause = s.lastErrCause := rfl
@[simp] theorem State.lAddr_lastEvt (b : Byte) : (s.lAddr b).lastEvt = s.lastEvt := rfl
@[simp] theorem State.lAddr_link (b : Byte) : (s.lAddr b).link = { s.link with sb := false, addrReq := some b } := rfl
@[simp] theorem State.lAddr_wire (b : Byte) : (s.lAddr b).wire = s.wire := rfl
@[simp] theorem State.lAddr_now (b : Byte) : (s.lAddr b).now = s.now := rfl
@[simp] theorem State.lAddr_busScl (b : Byte) : (s.lAddr b).busScl = s.busScl := rfl
@[simp] theorem State.lAddr_busSda (b : Byte) : (s.lAddr b).busSda = s.busSda := rfl
@[simp] theorem State.lAddr_hostProg (b : Byte) : (s.lAddr b).hostProg = s.hostProg := rfl
@[simp] theorem State.lAddr_hostData (b : Byte) : (s.lAddr b).hostData = s.hostData := rfl
@[simp] theorem State.lAddr_sched (b : Byte) : (s.lAddr b).sched = s.sched := rfl
@[simp] theorem State.lAddr_freeIdx (b : Byte) : (s.lAddr b).freeIdx = s.freeIdx := rfl
@[simp] theorem State.lAddr_params (b : Byte) : (s.lAddr b).params = s.params := rfl

/-! `lClrAddr` -/

@[simp] theorem State.lClrAddr_phase : (s.lClrAddr).phase = s.phase := rfl
@[simp] theorem State.lClrAddr_istep : (s.lClrAddr).istep = s.istep := rfl
@[simp] theorem State.lClrAddr_probeA : (s.lClrAddr).probeA = s.probeA := rfl
@[simp] theorem State.lClrAddr_tries : (s.lClrAddr).tries = s.tries := rfl
@[simp] theorem State.lClrAddr_bstep : (s.lClrAddr).bstep = s.bstep := rfl
@[simp] theorem State.lClrAddr_w0 : (s.lClrAddr).w0 = s.w0 := rfl
@[simp] theorem State.lClrAddr_waitAt : (s.lClrAddr).waitAt = s.waitAt := rfl
@[simp] theorem State.lClrAddr_delayEnd : (s.lClrAddr).delayEnd = s.delayEnd := rfl
@[simp] theorem State.lClrAddr_probeRest : (s.lClrAddr).probeRest = s.probeRest := rfl
@[simp] theorem State.lClrAddr_txAddr : (s.lClrAddr).txAddr = s.txAddr := rfl
@[simp] theorem State.lClrAddr_txBytes : (s.lClrAddr).txBytes = s.txBytes := rfl
@[simp] theorem State.lClrAddr_txSpeed : (s.lClrAddr).txSpeed = s.txSpeed := rfl
@[simp] theorem State.lClrAddr_text : (s.lClrAddr).text = s.text := rfl
@[simp] theorem State.lClrAddr_bl : (s.lClrAddr).bl = s.bl := rfl
@[simp] theorem State.lClrAddr_txbuf : (s.lClrAddr).txbuf = s.txbuf := rfl
@[simp] theorem State.lClrAddr_stage : (s.lClrAddr).stage = s.stage := rfl
@[simp] theorem State.lClrAddr_refreshCount : (s.lClrAddr).refreshCount = s.refreshCount := rfl
@[simp] theorem State.lClrAddr_devAddr : (s.lClrAddr).devAddr = s.devAddr := rfl
@[simp] theorem State.lClrAddr_oledCyc : (s.lClrAddr).oledCyc = s.oledCyc := rfl
@[simp] theorem State.lClrAddr_wdtArmed : (s.lClrAddr).wdtArmed = s.wdtArmed := rfl
@[simp] theorem State.lClrAddr_wdtCnt : (s.lClrAddr).wdtCnt = s.wdtCnt := rfl
@[simp] theorem State.lClrAddr_toPend : (s.lClrAddr).toPend = s.toPend := rfl
@[simp] theorem State.lClrAddr_chEn : (s.lClrAddr).chEn = s.chEn := rfl
@[simp] theorem State.lClrAddr_chPtr : (s.lClrAddr).chPtr = s.chPtr := rfl
@[simp] theorem State.lClrAddr_chCnt : (s.lClrAddr).chCnt = s.chCnt := rfl
@[simp] theorem State.lClrAddr_tcPend : (s.lClrAddr).tcPend = s.tcPend := rfl
@[simp] theorem State.lClrAddr_injPend : (s.lClrAddr).injPend = s.injPend := rfl
@[simp] theorem State.lClrAddr_evtEn : (s.lClrAddr).evtEn = s.evtEn := rfl
@[simp] theorem State.lClrAddr_errEn : (s.lClrAddr).errEn = s.errEn := rfl
@[simp] theorem State.lClrAddr_syncBusy : (s.lClrAddr).syncBusy = s.syncBusy := rfl
@[simp] theorem State.lClrAddr_syncSeen : (s.lClrAddr).syncSeen = s.syncSeen := rfl
@[simp] theorem State.lClrAddr_initFailed : (s.lClrAddr).initFailed = s.initFailed := rfl
@[simp] theorem State.lClrAddr_failCause : (s.lClrAddr).failCause = s.failCause := rfl
@[simp] theorem State.lClrAddr_busDead : (s.lClrAddr).busDead = s.busDead := rfl
@[simp] theorem State.lClrAddr_wedgeSeen : (s.lClrAddr).wedgeSeen = s.wedgeSeen := rfl
@[simp] theorem State.lClrAddr_wedgeStuck : (s.lClrAddr).wedgeStuck = s.wedgeStuck := rfl
@[simp] theorem State.lClrAddr_cmdErr : (s.lClrAddr).cmdErr = s.cmdErr := rfl
@[simp] theorem State.lClrAddr_sclMode : (s.lClrAddr).sclMode = s.sclMode := rfl
@[simp] theorem State.lClrAddr_sclLvl : (s.lClrAddr).sclLvl = s.sclLvl := rfl
@[simp] theorem State.lClrAddr_sdaMode : (s.lClrAddr).sdaMode = s.sdaMode := rfl
@[simp] theorem State.lClrAddr_sdaLvl : (s.lClrAddr).sdaLvl = s.sdaLvl := rfl
@[simp] theorem State.lClrAddr_faultCount : (s.lClrAddr).faultCount = s.faultCount := rfl
@[simp] theorem State.lClrAddr_lastErrRaw : (s.lClrAddr).lastErrRaw = s.lastErrRaw := rfl
@[simp] theorem State.lClrAddr_lastErrCause : (s.lClrAddr).lastErrCause = s.lastErrCause := rfl
@[simp] theorem State.lClrAddr_lastEvt : (s.lClrAddr).lastEvt = s.lastEvt := rfl
@[simp] theorem State.lClrAddr_link : (s.lClrAddr).link = { s.link with addr := false, data := true, sent := false } := rfl
@[simp] theorem State.lClrAddr_wire : (s.lClrAddr).wire = s.wire := rfl
@[simp] theorem State.lClrAddr_now : (s.lClrAddr).now = s.now := rfl
@[simp] theorem State.lClrAddr_busScl : (s.lClrAddr).busScl = s.busScl := rfl
@[simp] theorem State.lClrAddr_busSda : (s.lClrAddr).busSda = s.busSda := rfl
@[simp] theorem State.lClrAddr_hostProg : (s.lClrAddr).hostProg = s.hostProg := rfl
@[simp] theorem State.lClrAddr_hostData : (s.lClrAddr).hostData = s.hostData := rfl
@[simp] theorem State.lClrAddr_sched : (s.lClrAddr).sched = s.sched := rfl
@[simp] theorem State.lClrAddr_freeIdx : (s.lClrAddr).freeIdx = s.freeIdx := rfl
@[simp] theorem State.lClrAddr_params : (s.lClrAddr).params = s.params := rfl

/-! `lData` -/

@[simp] theorem State.lData_phase (b : Byte) : (s.lData b).phase = s.phase := rfl
@[simp] theorem State.lData_istep (b : Byte) : (s.lData b).istep = s.istep := rfl
@[simp] theorem State.lData_probeA (b : Byte) : (s.lData b).probeA = s.probeA := rfl
@[simp] theorem State.lData_tries (b : Byte) : (s.lData b).tries = s.tries := rfl
@[simp] theorem State.lData_bstep (b : Byte) : (s.lData b).bstep = s.bstep := rfl
@[simp] theorem State.lData_w0 (b : Byte) : (s.lData b).w0 = s.w0 := rfl
@[simp] theorem State.lData_waitAt (b : Byte) : (s.lData b).waitAt = s.waitAt := rfl
@[simp] theorem State.lData_delayEnd (b : Byte) : (s.lData b).delayEnd = s.delayEnd := rfl
@[simp] theorem State.lData_probeRest (b : Byte) : (s.lData b).probeRest = s.probeRest := rfl
@[simp] theorem State.lData_txAddr (b : Byte) : (s.lData b).txAddr = s.txAddr := rfl
@[simp] theorem State.lData_txBytes (b : Byte) : (s.lData b).txBytes = s.txBytes := rfl
@[simp] theorem State.lData_txSpeed (b : Byte) : (s.lData b).txSpeed = s.txSpeed := rfl
@[simp] theorem State.lData_text (b : Byte) : (s.lData b).text = s.text := rfl
@[simp] theorem State.lData_bl (b : Byte) : (s.lData b).bl = s.bl := rfl
@[simp] theorem State.lData_txbuf (b : Byte) : (s.lData b).txbuf = s.txbuf := rfl
@[simp] theorem State.lData_stage (b : Byte) : (s.lData b).stage = s.stage := rfl
@[simp] theorem State.lData_refreshCount (b : Byte) : (s.lData b).refreshCount = s.refreshCount := rfl
@[simp] theorem State.lData_devAddr (b : Byte) : (s.lData b).devAddr = s.devAddr := rfl
@[simp] theorem State.lData_oledCyc (b : Byte) : (s.lData b).oledCyc = s.oledCyc := rfl
@[simp] theorem State.lData_wdtArmed (b : Byte) : (s.lData b).wdtArmed = s.wdtArmed := rfl
@[simp] theorem State.lData_wdtCnt (b : Byte) : (s.lData b).wdtCnt = s.wdtCnt := rfl
@[simp] theorem State.lData_toPend (b : Byte) : (s.lData b).toPend = s.toPend := rfl
@[simp] theorem State.lData_chEn (b : Byte) : (s.lData b).chEn = s.chEn := rfl
@[simp] theorem State.lData_chPtr (b : Byte) : (s.lData b).chPtr = s.chPtr := rfl
@[simp] theorem State.lData_chCnt (b : Byte) : (s.lData b).chCnt = s.chCnt := rfl
@[simp] theorem State.lData_tcPend (b : Byte) : (s.lData b).tcPend = s.tcPend := rfl
@[simp] theorem State.lData_injPend (b : Byte) : (s.lData b).injPend = s.injPend := rfl
@[simp] theorem State.lData_evtEn (b : Byte) : (s.lData b).evtEn = s.evtEn := rfl
@[simp] theorem State.lData_errEn (b : Byte) : (s.lData b).errEn = s.errEn := rfl
@[simp] theorem State.lData_syncBusy (b : Byte) : (s.lData b).syncBusy = s.syncBusy := rfl
@[simp] theorem State.lData_syncSeen (b : Byte) : (s.lData b).syncSeen = s.syncSeen := rfl
@[simp] theorem State.lData_initFailed (b : Byte) : (s.lData b).initFailed = s.initFailed := rfl
@[simp] theorem State.lData_failCause (b : Byte) : (s.lData b).failCause = s.failCause := rfl
@[simp] theorem State.lData_busDead (b : Byte) : (s.lData b).busDead = s.busDead := rfl
@[simp] theorem State.lData_wedgeSeen (b : Byte) : (s.lData b).wedgeSeen = s.wedgeSeen := rfl
@[simp] theorem State.lData_wedgeStuck (b : Byte) : (s.lData b).wedgeStuck = s.wedgeStuck := rfl
@[simp] theorem State.lData_cmdErr (b : Byte) : (s.lData b).cmdErr = s.cmdErr := rfl
@[simp] theorem State.lData_sclMode (b : Byte) : (s.lData b).sclMode = s.sclMode := rfl
@[simp] theorem State.lData_sclLvl (b : Byte) : (s.lData b).sclLvl = s.sclLvl := rfl
@[simp] theorem State.lData_sdaMode (b : Byte) : (s.lData b).sdaMode = s.sdaMode := rfl
@[simp] theorem State.lData_sdaLvl (b : Byte) : (s.lData b).sdaLvl = s.sdaLvl := rfl
@[simp] theorem State.lData_faultCount (b : Byte) : (s.lData b).faultCount = s.faultCount := rfl
@[simp] theorem State.lData_lastErrRaw (b : Byte) : (s.lData b).lastErrRaw = s.lastErrRaw := rfl
@[simp] theorem State.lData_lastErrCause (b : Byte) : (s.lData b).lastErrCause = s.lastErrCause := rfl
@[simp] theorem State.lData_lastEvt (b : Byte) : (s.lData b).lastEvt = s.lastEvt := rfl
@[simp] theorem State.lData_link (b : Byte) : (s.lData b).link = { s.link with q := s.link.q ++ [b] } := rfl
@[simp] theorem State.lData_wire (b : Byte) : (s.lData b).wire = s.wire := rfl
@[simp] theorem State.lData_now (b : Byte) : (s.lData b).now = s.now := rfl
@[simp] theorem State.lData_busScl (b : Byte) : (s.lData b).busScl = s.busScl := rfl
@[simp] theorem State.lData_busSda (b : Byte) : (s.lData b).busSda = s.busSda := rfl
@[simp] theorem State.lData_hostProg (b : Byte) : (s.lData b).hostProg = s.hostProg := rfl
@[simp] theorem State.lData_hostData (b : Byte) : (s.lData b).hostData = s.hostData := rfl
@[simp] theorem State.lData_sched (b : Byte) : (s.lData b).sched = s.sched := rfl
@[simp] theorem State.lData_freeIdx (b : Byte) : (s.lData b).freeIdx = s.freeIdx := rfl
@[simp] theorem State.lData_params (b : Byte) : (s.lData b).params = s.params := rfl

/-! `lStop` -/

@[simp] theorem State.lStop_phase : (s.lStop).phase = s.phase := rfl
@[simp] theorem State.lStop_istep : (s.lStop).istep = s.istep := rfl
@[simp] theorem State.lStop_probeA : (s.lStop).probeA = s.probeA := rfl
@[simp] theorem State.lStop_tries : (s.lStop).tries = s.tries := rfl
@[simp] theorem State.lStop_bstep : (s.lStop).bstep = s.bstep := rfl
@[simp] theorem State.lStop_w0 : (s.lStop).w0 = s.w0 := rfl
@[simp] theorem State.lStop_waitAt : (s.lStop).waitAt = s.waitAt := rfl
@[simp] theorem State.lStop_delayEnd : (s.lStop).delayEnd = s.delayEnd := rfl
@[simp] theorem State.lStop_probeRest : (s.lStop).probeRest = s.probeRest := rfl
@[simp] theorem State.lStop_txAddr : (s.lStop).txAddr = s.txAddr := rfl
@[simp] theorem State.lStop_txBytes : (s.lStop).txBytes = s.txBytes := rfl
@[simp] theorem State.lStop_txSpeed : (s.lStop).txSpeed = s.txSpeed := rfl
@[simp] theorem State.lStop_text : (s.lStop).text = s.text := rfl
@[simp] theorem State.lStop_bl : (s.lStop).bl = s.bl := rfl
@[simp] theorem State.lStop_txbuf : (s.lStop).txbuf = s.txbuf := rfl
@[simp] theorem State.lStop_stage : (s.lStop).stage = s.stage := rfl
@[simp] theorem State.lStop_refreshCount : (s.lStop).refreshCount = s.refreshCount := rfl
@[simp] theorem State.lStop_devAddr : (s.lStop).devAddr = s.devAddr := rfl
@[simp] theorem State.lStop_oledCyc : (s.lStop).oledCyc = s.oledCyc := rfl
@[simp] theorem State.lStop_wdtArmed : (s.lStop).wdtArmed = s.wdtArmed := rfl
@[simp] theorem State.lStop_wdtCnt : (s.lStop).wdtCnt = s.wdtCnt := rfl
@[simp] theorem State.lStop_toPend : (s.lStop).toPend = s.toPend := rfl
@[simp] theorem State.lStop_chEn : (s.lStop).chEn = s.chEn := rfl
@[simp] theorem State.lStop_chPtr : (s.lStop).chPtr = s.chPtr := rfl
@[simp] theorem State.lStop_chCnt : (s.lStop).chCnt = s.chCnt := rfl
@[simp] theorem State.lStop_tcPend : (s.lStop).tcPend = s.tcPend := rfl
@[simp] theorem State.lStop_injPend : (s.lStop).injPend = s.injPend := rfl
@[simp] theorem State.lStop_evtEn : (s.lStop).evtEn = s.evtEn := rfl
@[simp] theorem State.lStop_errEn : (s.lStop).errEn = s.errEn := rfl
@[simp] theorem State.lStop_syncBusy : (s.lStop).syncBusy = s.syncBusy := rfl
@[simp] theorem State.lStop_syncSeen : (s.lStop).syncSeen = s.syncSeen := rfl
@[simp] theorem State.lStop_initFailed : (s.lStop).initFailed = s.initFailed := rfl
@[simp] theorem State.lStop_failCause : (s.lStop).failCause = s.failCause := rfl
@[simp] theorem State.lStop_busDead : (s.lStop).busDead = s.busDead := rfl
@[simp] theorem State.lStop_wedgeSeen : (s.lStop).wedgeSeen = s.wedgeSeen := rfl
@[simp] theorem State.lStop_wedgeStuck : (s.lStop).wedgeStuck = s.wedgeStuck := rfl
@[simp] theorem State.lStop_cmdErr : (s.lStop).cmdErr = s.cmdErr := rfl
@[simp] theorem State.lStop_sclMode : (s.lStop).sclMode = s.sclMode := rfl
@[simp] theorem State.lStop_sclLvl : (s.lStop).sclLvl = s.sclLvl := rfl
@[simp] theorem State.lStop_sdaMode : (s.lStop).sdaMode = s.sdaMode := rfl
@[simp] theorem State.lStop_sdaLvl : (s.lStop).sdaLvl = s.sdaLvl := rfl
@[simp] theorem State.lStop_faultCount : (s.lStop).faultCount = s.faultCount := rfl
@[simp] theorem State.lStop_lastErrRaw : (s.lStop).lastErrRaw = s.lastErrRaw := rfl
@[simp] theorem State.lStop_lastErrCause : (s.lStop).lastErrCause = s.lastErrCause := rfl
@[simp] theorem State.lStop_lastEvt : (s.lStop).lastEvt = s.lastEvt := rfl
@[simp] theorem State.lStop_link : (s.lStop).link = { s.link with stopBusy := true } := rfl
@[simp] theorem State.lStop_wire : (s.lStop).wire = s.wire := rfl
@[simp] theorem State.lStop_now : (s.lStop).now = s.now := rfl
@[simp] theorem State.lStop_busScl : (s.lStop).busScl = s.busScl := rfl
@[simp] theorem State.lStop_busSda : (s.lStop).busSda = s.busSda := rfl
@[simp] theorem State.lStop_hostProg : (s.lStop).hostProg = s.hostProg := rfl
@[simp] theorem State.lStop_hostData : (s.lStop).hostData = s.hostData := rfl
@[simp] theorem State.lStop_sched : (s.lStop).sched = s.sched := rfl
@[simp] theorem State.lStop_freeIdx : (s.lStop).freeIdx = s.freeIdx := rfl
@[simp] theorem State.lStop_params : (s.lStop).params = s.params := rfl

/-! `lClrErr` -/

@[simp] theorem State.lClrErr_phase : (s.lClrErr).phase = s.phase := rfl
@[simp] theorem State.lClrErr_istep : (s.lClrErr).istep = s.istep := rfl
@[simp] theorem State.lClrErr_probeA : (s.lClrErr).probeA = s.probeA := rfl
@[simp] theorem State.lClrErr_tries : (s.lClrErr).tries = s.tries := rfl
@[simp] theorem State.lClrErr_bstep : (s.lClrErr).bstep = s.bstep := rfl
@[simp] theorem State.lClrErr_w0 : (s.lClrErr).w0 = s.w0 := rfl
@[simp] theorem State.lClrErr_waitAt : (s.lClrErr).waitAt = s.waitAt := rfl
@[simp] theorem State.lClrErr_delayEnd : (s.lClrErr).delayEnd = s.delayEnd := rfl
@[simp] theorem State.lClrErr_probeRest : (s.lClrErr).probeRest = s.probeRest := rfl
@[simp] theorem State.lClrErr_txAddr : (s.lClrErr).txAddr = s.txAddr := rfl
@[simp] theorem State.lClrErr_txBytes : (s.lClrErr).txBytes = s.txBytes := rfl
@[simp] theorem State.lClrErr_txSpeed : (s.lClrErr).txSpeed = s.txSpeed := rfl
@[simp] theorem State.lClrErr_text : (s.lClrErr).text = s.text := rfl
@[simp] theorem State.lClrErr_bl : (s.lClrErr).bl = s.bl := rfl
@[simp] theorem State.lClrErr_txbuf : (s.lClrErr).txbuf = s.txbuf := rfl
@[simp] theorem State.lClrErr_stage : (s.lClrErr).stage = s.stage := rfl
@[simp] theorem State.lClrErr_refreshCount : (s.lClrErr).refreshCount = s.refreshCount := rfl
@[simp] theorem State.lClrErr_devAddr : (s.lClrErr).devAddr = s.devAddr := rfl
@[simp] theorem State.lClrErr_oledCyc : (s.lClrErr).oledCyc = s.oledCyc := rfl
@[simp] theorem State.lClrErr_wdtArmed : (s.lClrErr).wdtArmed = s.wdtArmed := rfl
@[simp] theorem State.lClrErr_wdtCnt : (s.lClrErr).wdtCnt = s.wdtCnt := rfl
@[simp] theorem State.lClrErr_toPend : (s.lClrErr).toPend = s.toPend := rfl
@[simp] theorem State.lClrErr_chEn : (s.lClrErr).chEn = s.chEn := rfl
@[simp] theorem State.lClrErr_chPtr : (s.lClrErr).chPtr = s.chPtr := rfl
@[simp] theorem State.lClrErr_chCnt : (s.lClrErr).chCnt = s.chCnt := rfl
@[simp] theorem State.lClrErr_tcPend : (s.lClrErr).tcPend = s.tcPend := rfl
@[simp] theorem State.lClrErr_injPend : (s.lClrErr).injPend = s.injPend := rfl
@[simp] theorem State.lClrErr_evtEn : (s.lClrErr).evtEn = s.evtEn := rfl
@[simp] theorem State.lClrErr_errEn : (s.lClrErr).errEn = s.errEn := rfl
@[simp] theorem State.lClrErr_syncBusy : (s.lClrErr).syncBusy = s.syncBusy := rfl
@[simp] theorem State.lClrErr_syncSeen : (s.lClrErr).syncSeen = s.syncSeen := rfl
@[simp] theorem State.lClrErr_initFailed : (s.lClrErr).initFailed = s.initFailed := rfl
@[simp] theorem State.lClrErr_failCause : (s.lClrErr).failCause = s.failCause := rfl
@[simp] theorem State.lClrErr_busDead : (s.lClrErr).busDead = s.busDead := rfl
@[simp] theorem State.lClrErr_wedgeSeen : (s.lClrErr).wedgeSeen = s.wedgeSeen := rfl
@[simp] theorem State.lClrErr_wedgeStuck : (s.lClrErr).wedgeStuck = s.wedgeStuck := rfl
@[simp] theorem State.lClrErr_cmdErr : (s.lClrErr).cmdErr = s.cmdErr := rfl
@[simp] theorem State.lClrErr_sclMode : (s.lClrErr).sclMode = s.sclMode := rfl
@[simp] theorem State.lClrErr_sclLvl : (s.lClrErr).sclLvl = s.sclLvl := rfl
@[simp] theorem State.lClrErr_sdaMode : (s.lClrErr).sdaMode = s.sdaMode := rfl
@[simp] theorem State.lClrErr_sdaLvl : (s.lClrErr).sdaLvl = s.sdaLvl := rfl
@[simp] theorem State.lClrErr_faultCount : (s.lClrErr).faultCount = s.faultCount := rfl
@[simp] theorem State.lClrErr_lastErrRaw : (s.lClrErr).lastErrRaw = s.lastErrRaw := rfl
@[simp] theorem State.lClrErr_lastErrCause : (s.lClrErr).lastErrCause = s.lastErrCause := rfl
@[simp] theorem State.lClrErr_lastEvt : (s.lClrErr).lastEvt = s.lastEvt := rfl
@[simp] theorem State.lClrErr_link : (s.lClrErr).link = { s.link with err := 0 } := rfl
@[simp] theorem State.lClrErr_wire : (s.lClrErr).wire = s.wire := rfl
@[simp] theorem State.lClrErr_now : (s.lClrErr).now = s.now := rfl
@[simp] theorem State.lClrErr_busScl : (s.lClrErr).busScl = s.busScl := rfl
@[simp] theorem State.lClrErr_busSda : (s.lClrErr).busSda = s.busSda := rfl
@[simp] theorem State.lClrErr_hostProg : (s.lClrErr).hostProg = s.hostProg := rfl
@[simp] theorem State.lClrErr_hostData : (s.lClrErr).hostData = s.hostData := rfl
@[simp] theorem State.lClrErr_sched : (s.lClrErr).sched = s.sched := rfl
@[simp] theorem State.lClrErr_freeIdx : (s.lClrErr).freeIdx = s.freeIdx := rfl
@[simp] theorem State.lClrErr_params : (s.lClrErr).params = s.params := rfl

/-! `dmaReset` -/

@[simp] theorem State.dmaReset_phase : (s.dmaReset).phase = s.phase := rfl
@[simp] theorem State.dmaReset_istep : (s.dmaReset).istep = s.istep := rfl
@[simp] theorem State.dmaReset_probeA : (s.dmaReset).probeA = s.probeA := rfl
@[simp] theorem State.dmaReset_tries : (s.dmaReset).tries = s.tries := rfl
@[simp] theorem State.dmaReset_bstep : (s.dmaReset).bstep = s.bstep := rfl
@[simp] theorem State.dmaReset_w0 : (s.dmaReset).w0 = s.w0 := rfl
@[simp] theorem State.dmaReset_waitAt : (s.dmaReset).waitAt = s.waitAt := rfl
@[simp] theorem State.dmaReset_delayEnd : (s.dmaReset).delayEnd = s.delayEnd := rfl
@[simp] theorem State.dmaReset_probeRest : (s.dmaReset).probeRest = s.probeRest := rfl
@[simp] theorem State.dmaReset_txAddr : (s.dmaReset).txAddr = s.txAddr := rfl
@[simp] theorem State.dmaReset_txBytes : (s.dmaReset).txBytes = s.txBytes := rfl
@[simp] theorem State.dmaReset_txSpeed : (s.dmaReset).txSpeed = s.txSpeed := rfl
@[simp] theorem State.dmaReset_text : (s.dmaReset).text = s.text := rfl
@[simp] theorem State.dmaReset_bl : (s.dmaReset).bl = s.bl := rfl
@[simp] theorem State.dmaReset_txbuf : (s.dmaReset).txbuf = s.txbuf := rfl
@[simp] theorem State.dmaReset_stage : (s.dmaReset).stage = s.stage := rfl
@[simp] theorem State.dmaReset_refreshCount : (s.dmaReset).refreshCount = s.refreshCount := rfl
@[simp] theorem State.dmaReset_devAddr : (s.dmaReset).devAddr = s.devAddr := rfl
@[simp] theorem State.dmaReset_oledCyc : (s.dmaReset).oledCyc = s.oledCyc := rfl
@[simp] theorem State.dmaReset_wdtArmed : (s.dmaReset).wdtArmed = s.wdtArmed := rfl
@[simp] theorem State.dmaReset_wdtCnt : (s.dmaReset).wdtCnt = s.wdtCnt := rfl
@[simp] theorem State.dmaReset_toPend : (s.dmaReset).toPend = s.toPend := rfl
@[simp] theorem State.dmaReset_chEn : (s.dmaReset).chEn = false := rfl
@[simp] theorem State.dmaReset_chPtr : (s.dmaReset).chPtr = 0 := rfl
@[simp] theorem State.dmaReset_chCnt : (s.dmaReset).chCnt = 0 := rfl
@[simp] theorem State.dmaReset_tcPend : (s.dmaReset).tcPend = false := rfl
@[simp] theorem State.dmaReset_injPend : (s.dmaReset).injPend = s.injPend := rfl
@[simp] theorem State.dmaReset_evtEn : (s.dmaReset).evtEn = s.evtEn := rfl
@[simp] theorem State.dmaReset_errEn : (s.dmaReset).errEn = s.errEn := rfl
@[simp] theorem State.dmaReset_syncBusy : (s.dmaReset).syncBusy = s.syncBusy := rfl
@[simp] theorem State.dmaReset_syncSeen : (s.dmaReset).syncSeen = s.syncSeen := rfl
@[simp] theorem State.dmaReset_initFailed : (s.dmaReset).initFailed = s.initFailed := rfl
@[simp] theorem State.dmaReset_failCause : (s.dmaReset).failCause = s.failCause := rfl
@[simp] theorem State.dmaReset_busDead : (s.dmaReset).busDead = s.busDead := rfl
@[simp] theorem State.dmaReset_wedgeSeen : (s.dmaReset).wedgeSeen = s.wedgeSeen := rfl
@[simp] theorem State.dmaReset_wedgeStuck : (s.dmaReset).wedgeStuck = s.wedgeStuck := rfl
@[simp] theorem State.dmaReset_cmdErr : (s.dmaReset).cmdErr = s.cmdErr := rfl
@[simp] theorem State.dmaReset_sclMode : (s.dmaReset).sclMode = s.sclMode := rfl
@[simp] theorem State.dmaReset_sclLvl : (s.dmaReset).sclLvl = s.sclLvl := rfl
@[simp] theorem State.dmaReset_sdaMode : (s.dmaReset).sdaMode = s.sdaMode := rfl
@[simp] theorem State.dmaReset_sdaLvl : (s.dmaReset).sdaLvl = s.sdaLvl := rfl
@[simp] theorem State.dmaReset_faultCount : (s.dmaReset).faultCount = s.faultCount := rfl
@[simp] theorem State.dmaReset_lastErrRaw : (s.dmaReset).lastErrRaw = s.lastErrRaw := rfl
@[simp] theorem State.dmaReset_lastErrCause : (s.dmaReset).lastErrCause = s.lastErrCause := rfl
@[simp] theorem State.dmaReset_lastEvt : (s.dmaReset).lastEvt = s.lastEvt := rfl
@[simp] theorem State.dmaReset_link : (s.dmaReset).link = s.link := rfl
@[simp] theorem State.dmaReset_wire : (s.dmaReset).wire = s.wire := rfl
@[simp] theorem State.dmaReset_now : (s.dmaReset).now = s.now := rfl
@[simp] theorem State.dmaReset_busScl : (s.dmaReset).busScl = s.busScl := rfl
@[simp] theorem State.dmaReset_busSda : (s.dmaReset).busSda = s.busSda := rfl
@[simp] theorem State.dmaReset_hostProg : (s.dmaReset).hostProg = s.hostProg := rfl
@[simp] theorem State.dmaReset_hostData : (s.dmaReset).hostData = s.hostData := rfl
@[simp] theorem State.dmaReset_sched : (s.dmaReset).sched = s.sched := rfl
@[simp] theorem State.dmaReset_freeIdx : (s.dmaReset).freeIdx = s.freeIdx := rfl
@[simp] theorem State.dmaReset_params : (s.dmaReset).params = s.params := rfl

/-! `dmaStart` -/

@[simp] theorem State.dmaStart_phase (n : Nat) : (s.dmaStart n).phase = s.phase := rfl
@[simp] theorem State.dmaStart_istep (n : Nat) : (s.dmaStart n).istep = s.istep := rfl
@[simp] theorem State.dmaStart_probeA (n : Nat) : (s.dmaStart n).probeA = s.probeA := rfl
@[simp] theorem State.dmaStart_tries (n : Nat) : (s.dmaStart n).tries = s.tries := rfl
@[simp] theorem State.dmaStart_bstep (n : Nat) : (s.dmaStart n).bstep = s.bstep := rfl
@[simp] theorem State.dmaStart_w0 (n : Nat) : (s.dmaStart n).w0 = s.w0 := rfl
@[simp] theorem State.dmaStart_waitAt (n : Nat) : (s.dmaStart n).waitAt = s.waitAt := rfl
@[simp] theorem State.dmaStart_delayEnd (n : Nat) : (s.dmaStart n).delayEnd = s.delayEnd := rfl
@[simp] theorem State.dmaStart_probeRest (n : Nat) : (s.dmaStart n).probeRest = s.probeRest := rfl
@[simp] theorem State.dmaStart_txAddr (n : Nat) : (s.dmaStart n).txAddr = s.txAddr := rfl
@[simp] theorem State.dmaStart_txBytes (n : Nat) : (s.dmaStart n).txBytes = s.txBytes := rfl
@[simp] theorem State.dmaStart_txSpeed (n : Nat) : (s.dmaStart n).txSpeed = s.txSpeed := rfl
@[simp] theorem State.dmaStart_text (n : Nat) : (s.dmaStart n).text = s.text := rfl
@[simp] theorem State.dmaStart_bl (n : Nat) : (s.dmaStart n).bl = s.bl := rfl
@[simp] theorem State.dmaStart_txbuf (n : Nat) : (s.dmaStart n).txbuf = s.txbuf := rfl
@[simp] theorem State.dmaStart_stage (n : Nat) : (s.dmaStart n).stage = s.stage := rfl
@[simp] theorem State.dmaStart_refreshCount (n : Nat) : (s.dmaStart n).refreshCount = s.refreshCount := rfl
@[simp] theorem State.dmaStart_devAddr (n : Nat) : (s.dmaStart n).devAddr = s.devAddr := rfl
@[simp] theorem State.dmaStart_oledCyc (n : Nat) : (s.dmaStart n).oledCyc = s.oledCyc := rfl
@[simp] theorem State.dmaStart_wdtArmed (n : Nat) : (s.dmaStart n).wdtArmed = true := rfl
@[simp] theorem State.dmaStart_wdtCnt (n : Nat) : (s.dmaStart n).wdtCnt = 0 := rfl
@[simp] theorem State.dmaStart_toPend (n : Nat) : (s.dmaStart n).toPend = false := rfl
@[simp] theorem State.dmaStart_chEn (n : Nat) : (s.dmaStart n).chEn = true := rfl
@[simp] theorem State.dmaStart_chPtr (n : Nat) : (s.dmaStart n).chPtr = 0 := rfl
@[simp] theorem State.dmaStart_chCnt (n : Nat) : (s.dmaStart n).chCnt = BitVec.ofNat 9 n := rfl
@[simp] theorem State.dmaStart_tcPend (n : Nat) : (s.dmaStart n).tcPend = false := rfl
@[simp] theorem State.dmaStart_injPend (n : Nat) : (s.dmaStart n).injPend = s.injPend := rfl
@[simp] theorem State.dmaStart_evtEn (n : Nat) : (s.dmaStart n).evtEn = s.evtEn := rfl
@[simp] theorem State.dmaStart_errEn (n : Nat) : (s.dmaStart n).errEn = s.errEn := rfl
@[simp] theorem State.dmaStart_syncBusy (n : Nat) : (s.dmaStart n).syncBusy = s.syncBusy := rfl
@[simp] theorem State.dmaStart_syncSeen (n : Nat) : (s.dmaStart n).syncSeen = s.syncSeen := rfl
@[simp] theorem State.dmaStart_initFailed (n : Nat) : (s.dmaStart n).initFailed = s.initFailed := rfl
@[simp] theorem State.dmaStart_failCause (n : Nat) : (s.dmaStart n).failCause = s.failCause := rfl
@[simp] theorem State.dmaStart_busDead (n : Nat) : (s.dmaStart n).busDead = s.busDead := rfl
@[simp] theorem State.dmaStart_wedgeSeen (n : Nat) : (s.dmaStart n).wedgeSeen = s.wedgeSeen := rfl
@[simp] theorem State.dmaStart_wedgeStuck (n : Nat) : (s.dmaStart n).wedgeStuck = s.wedgeStuck := rfl
@[simp] theorem State.dmaStart_cmdErr (n : Nat) : (s.dmaStart n).cmdErr = s.cmdErr := rfl
@[simp] theorem State.dmaStart_sclMode (n : Nat) : (s.dmaStart n).sclMode = s.sclMode := rfl
@[simp] theorem State.dmaStart_sclLvl (n : Nat) : (s.dmaStart n).sclLvl = s.sclLvl := rfl
@[simp] theorem State.dmaStart_sdaMode (n : Nat) : (s.dmaStart n).sdaMode = s.sdaMode := rfl
@[simp] theorem State.dmaStart_sdaLvl (n : Nat) : (s.dmaStart n).sdaLvl = s.sdaLvl := rfl
@[simp] theorem State.dmaStart_faultCount (n : Nat) : (s.dmaStart n).faultCount = s.faultCount := rfl
@[simp] theorem State.dmaStart_lastErrRaw (n : Nat) : (s.dmaStart n).lastErrRaw = s.lastErrRaw := rfl
@[simp] theorem State.dmaStart_lastErrCause (n : Nat) : (s.dmaStart n).lastErrCause = s.lastErrCause := rfl
@[simp] theorem State.dmaStart_lastEvt (n : Nat) : (s.dmaStart n).lastEvt = s.lastEvt := rfl
@[simp] theorem State.dmaStart_link (n : Nat) : (s.dmaStart n).link = s.link := rfl
@[simp] theorem State.dmaStart_wire (n : Nat) : (s.dmaStart n).wire = s.wire := rfl
@[simp] theorem State.dmaStart_now (n : Nat) : (s.dmaStart n).now = s.now := rfl
@[simp] theorem State.dmaStart_busScl (n : Nat) : (s.dmaStart n).busScl = s.busScl := rfl
@[simp] theorem State.dmaStart_busSda (n : Nat) : (s.dmaStart n).busSda = s.busSda := rfl
@[simp] theorem State.dmaStart_hostProg (n : Nat) : (s.dmaStart n).hostProg = s.hostProg := rfl
@[simp] theorem State.dmaStart_hostData (n : Nat) : (s.dmaStart n).hostData = s.hostData := rfl
@[simp] theorem State.dmaStart_sched (n : Nat) : (s.dmaStart n).sched = s.sched := rfl
@[simp] theorem State.dmaStart_freeIdx (n : Nat) : (s.dmaStart n).freeIdx = s.freeIdx := rfl
@[simp] theorem State.dmaStart_params (n : Nat) : (s.dmaStart n).params = s.params := rfl

/-! `wdtDisarm` -/

@[simp] theorem State.wdtDisarm_phase : (s.wdtDisarm).phase = s.phase := rfl
@[simp] theorem State.wdtDisarm_istep : (s.wdtDisarm).istep = s.istep := rfl
@[simp] theorem State.wdtDisarm_probeA : (s.wdtDisarm).probeA = s.probeA := rfl
@[simp] theorem State.wdtDisarm_tries : (s.wdtDisarm).tries = s.tries := rfl
@[simp] theorem State.wdtDisarm_bstep : (s.wdtDisarm).bstep = s.bstep := rfl
@[simp] theorem State.wdtDisarm_w0 : (s.wdtDisarm).w0 = s.w0 := rfl
@[simp] theorem State.wdtDisarm_waitAt : (s.wdtDisarm).waitAt = s.waitAt := rfl
@[simp] theorem State.wdtDisarm_delayEnd : (s.wdtDisarm).delayEnd = s.delayEnd := rfl
@[simp] theorem State.wdtDisarm_probeRest : (s.wdtDisarm).probeRest = s.probeRest := rfl
@[simp] theorem State.wdtDisarm_txAddr : (s.wdtDisarm).txAddr = s.txAddr := rfl
@[simp] theorem State.wdtDisarm_txBytes : (s.wdtDisarm).txBytes = s.txBytes := rfl
@[simp] theorem State.wdtDisarm_txSpeed : (s.wdtDisarm).txSpeed = s.txSpeed := rfl
@[simp] theorem State.wdtDisarm_text : (s.wdtDisarm).text = s.text := rfl
@[simp] theorem State.wdtDisarm_bl : (s.wdtDisarm).bl = s.bl := rfl
@[simp] theorem State.wdtDisarm_txbuf : (s.wdtDisarm).txbuf = s.txbuf := rfl
@[simp] theorem State.wdtDisarm_stage : (s.wdtDisarm).stage = s.stage := rfl
@[simp] theorem State.wdtDisarm_refreshCount : (s.wdtDisarm).refreshCount = s.refreshCount := rfl
@[simp] theorem State.wdtDisarm_devAddr : (s.wdtDisarm).devAddr = s.devAddr := rfl
@[simp] theorem State.wdtDisarm_oledCyc : (s.wdtDisarm).oledCyc = s.oledCyc := rfl
@[simp] theorem State.wdtDisarm_wdtArmed : (s.wdtDisarm).wdtArmed = false := rfl
@[simp] theorem State.wdtDisarm_wdtCnt : (s.wdtDisarm).wdtCnt = 0 := rfl
@[simp] theorem State.wdtDisarm_toPend : (s.wdtDisarm).toPend = false := rfl
@[simp] theorem State.wdtDisarm_chEn : (s.wdtDisarm).chEn = s.chEn := rfl
@[simp] theorem State.wdtDisarm_chPtr : (s.wdtDisarm).chPtr = s.chPtr := rfl
@[simp] theorem State.wdtDisarm_chCnt : (s.wdtDisarm).chCnt = s.chCnt := rfl
@[simp] theorem State.wdtDisarm_tcPend : (s.wdtDisarm).tcPend = s.tcPend := rfl
@[simp] theorem State.wdtDisarm_injPend : (s.wdtDisarm).injPend = s.injPend := rfl
@[simp] theorem State.wdtDisarm_evtEn : (s.wdtDisarm).evtEn = s.evtEn := rfl
@[simp] theorem State.wdtDisarm_errEn : (s.wdtDisarm).errEn = s.errEn := rfl
@[simp] theorem State.wdtDisarm_syncBusy : (s.wdtDisarm).syncBusy = s.syncBusy := rfl
@[simp] theorem State.wdtDisarm_syncSeen : (s.wdtDisarm).syncSeen = s.syncSeen := rfl
@[simp] theorem State.wdtDisarm_initFailed : (s.wdtDisarm).initFailed = s.initFailed := rfl
@[simp] theorem State.wdtDisarm_failCause : (s.wdtDisarm).failCause = s.failCause := rfl
@[simp] theorem State.wdtDisarm_busDead : (s.wdtDisarm).busDead = s.busDead := rfl
@[simp] theorem State.wdtDisarm_wedgeSeen : (s.wdtDisarm).wedgeSeen = s.wedgeSeen := rfl
@[simp] theorem State.wdtDisarm_wedgeStuck : (s.wdtDisarm).wedgeStuck = s.wedgeStuck := rfl
@[simp] theorem State.wdtDisarm_cmdErr : (s.wdtDisarm).cmdErr = s.cmdErr := rfl
@[simp] theorem State.wdtDisarm_sclMode : (s.wdtDisarm).sclMode = s.sclMode := rfl
@[simp] theorem State.wdtDisarm_sclLvl : (s.wdtDisarm).sclLvl = s.sclLvl := rfl
@[simp] theorem State.wdtDisarm_sdaMode : (s.wdtDisarm).sdaMode = s.sdaMode := rfl
@[simp] theorem State.wdtDisarm_sdaLvl : (s.wdtDisarm).sdaLvl = s.sdaLvl := rfl
@[simp] theorem State.wdtDisarm_faultCount : (s.wdtDisarm).faultCount = s.faultCount := rfl
@[simp] theorem State.wdtDisarm_lastErrRaw : (s.wdtDisarm).lastErrRaw = s.lastErrRaw := rfl
@[simp] theorem State.wdtDisarm_lastErrCause : (s.wdtDisarm).lastErrCause = s.lastErrCause := rfl
@[simp] theorem State.wdtDisarm_lastEvt : (s.wdtDisarm).lastEvt = s.lastEvt := rfl
@[simp] theorem State.wdtDisarm_link : (s.wdtDisarm).link = s.link := rfl
@[simp] theorem State.wdtDisarm_wire : (s.wdtDisarm).wire = s.wire := rfl
@[simp] theorem State.wdtDisarm_now : (s.wdtDisarm).now = s.now := rfl
@[simp] theorem State.wdtDisarm_busScl : (s.wdtDisarm).busScl = s.busScl := rfl
@[simp] theorem State.wdtDisarm_busSda : (s.wdtDisarm).busSda = s.busSda := rfl
@[simp] theorem State.wdtDisarm_hostProg : (s.wdtDisarm).hostProg = s.hostProg := rfl
@[simp] theorem State.wdtDisarm_hostData : (s.wdtDisarm).hostData = s.hostData := rfl
@[simp] theorem State.wdtDisarm_sched : (s.wdtDisarm).sched = s.sched := rfl
@[simp] theorem State.wdtDisarm_freeIdx : (s.wdtDisarm).freeIdx = s.freeIdx := rfl
@[simp] theorem State.wdtDisarm_params : (s.wdtDisarm).params = s.params := rfl

/-! `refreshTick` -/

@[simp] theorem State.refreshTick_phase : (s.refreshTick).phase = s.phase := rfl
@[simp] theorem State.refreshTick_istep : (s.refreshTick).istep = s.istep := rfl
@[simp] theorem State.refreshTick_probeA : (s.refreshTick).probeA = s.probeA := rfl
@[simp] theorem State.refreshTick_tries : (s.refreshTick).tries = s.tries := rfl
@[simp] theorem State.refreshTick_bstep : (s.refreshTick).bstep = s.bstep := rfl
@[simp] theorem State.refreshTick_w0 : (s.refreshTick).w0 = s.w0 := rfl
@[simp] theorem State.refreshTick_waitAt : (s.refreshTick).waitAt = s.waitAt := rfl
@[simp] theorem State.refreshTick_delayEnd : (s.refreshTick).delayEnd = s.delayEnd := rfl
@[simp] theorem State.refreshTick_probeRest : (s.refreshTick).probeRest = s.probeRest := rfl
@[simp] theorem State.refreshTick_txAddr : (s.refreshTick).txAddr = s.txAddr := rfl
@[simp] theorem State.refreshTick_txBytes : (s.refreshTick).txBytes = s.txBytes := rfl
@[simp] theorem State.refreshTick_txSpeed : (s.refreshTick).txSpeed = s.txSpeed := rfl
@[simp] theorem State.refreshTick_text : (s.refreshTick).text = s.text := rfl
@[simp] theorem State.refreshTick_bl : (s.refreshTick).bl = s.bl := rfl
@[simp] theorem State.refreshTick_txbuf : (s.refreshTick).txbuf = s.txbuf := rfl
@[simp] theorem State.refreshTick_stage : (s.refreshTick).stage = s.stage := rfl
@[simp] theorem State.refreshTick_refreshCount : (s.refreshTick).refreshCount = s.refreshCount + 1 := rfl
@[simp] theorem State.refreshTick_devAddr : (s.refreshTick).devAddr = s.devAddr := rfl
@[simp] theorem State.refreshTick_oledCyc : (s.refreshTick).oledCyc = s.oledCyc := rfl
@[simp] theorem State.refreshTick_wdtArmed : (s.refreshTick).wdtArmed = s.wdtArmed := rfl
@[simp] theorem State.refreshTick_wdtCnt : (s.refreshTick).wdtCnt = s.wdtCnt := rfl
@[simp] theorem State.refreshTick_toPend : (s.refreshTick).toPend = s.toPend := rfl
@[simp] theorem State.refreshTick_chEn : (s.refreshTick).chEn = s.chEn := rfl
@[simp] theorem State.refreshTick_chPtr : (s.refreshTick).chPtr = s.chPtr := rfl
@[simp] theorem State.refreshTick_chCnt : (s.refreshTick).chCnt = s.chCnt := rfl
@[simp] theorem State.refreshTick_tcPend : (s.refreshTick).tcPend = s.tcPend := rfl
@[simp] theorem State.refreshTick_injPend : (s.refreshTick).injPend = s.injPend := rfl
@[simp] theorem State.refreshTick_evtEn : (s.refreshTick).evtEn = s.evtEn := rfl
@[simp] theorem State.refreshTick_errEn : (s.refreshTick).errEn = s.errEn := rfl
@[simp] theorem State.refreshTick_syncBusy : (s.refreshTick).syncBusy = busyAfterTick s.syncBusy s.syncSeen := rfl
@[simp] theorem State.refreshTick_syncSeen : (s.refreshTick).syncSeen = seenAfterTick s.syncBusy s.syncSeen := rfl
@[simp] theorem State.refreshTick_initFailed : (s.refreshTick).initFailed = s.initFailed := rfl
@[simp] theorem State.refreshTick_failCause : (s.refreshTick).failCause = s.failCause := rfl
@[simp] theorem State.refreshTick_busDead : (s.refreshTick).busDead = s.busDead := rfl
@[simp] theorem State.refreshTick_wedgeSeen : (s.refreshTick).wedgeSeen = s.wedgeSeen := rfl
@[simp] theorem State.refreshTick_wedgeStuck : (s.refreshTick).wedgeStuck = s.wedgeStuck := rfl
@[simp] theorem State.refreshTick_cmdErr : (s.refreshTick).cmdErr = s.cmdErr := rfl
@[simp] theorem State.refreshTick_sclMode : (s.refreshTick).sclMode = s.sclMode := rfl
@[simp] theorem State.refreshTick_sclLvl : (s.refreshTick).sclLvl = s.sclLvl := rfl
@[simp] theorem State.refreshTick_sdaMode : (s.refreshTick).sdaMode = s.sdaMode := rfl
@[simp] theorem State.refreshTick_sdaLvl : (s.refreshTick).sdaLvl = s.sdaLvl := rfl
@[simp] theorem State.refreshTick_faultCount : (s.refreshTick).faultCount = s.faultCount := rfl
@[simp] theorem State.refreshTick_lastErrRaw : (s.refreshTick).lastErrRaw = s.lastErrRaw := rfl
@[simp] theorem State.refreshTick_lastErrCause : (s.refreshTick).lastErrCause = s.lastErrCause := rfl
@[simp] theorem State.refreshTick_lastEvt : (s.refreshTick).lastEvt = s.lastEvt := rfl
@[simp] theorem State.refreshTick_link : (s.refreshTick).link = s.link := rfl
@[simp] theorem State.refreshTick_wire : (s.refreshTick).wire = s.wire := rfl
@[simp] theorem State.refreshTick_now : (s.refreshTick).now = s.now := rfl
@[simp] theorem State.refreshTick_busScl : (s.refreshTick).busScl = s.busScl := rfl
@[simp] theorem State.refreshTick_busSda : (s.refreshTick).busSda = s.busSda := rfl
@[simp] theorem State.refreshTick_hostProg : (s.refreshTick).hostProg = s.hostProg := rfl
@[simp] theorem State.refreshTick_hostData : (s.refreshTick).hostData = s.hostData := rfl
@[simp] theorem State.refreshTick_sched : (s.refreshTick).sched = s.sched := rfl
@[simp] theorem State.refreshTick_freeIdx : (s.refreshTick).freeIdx = s.freeIdx := rfl
@[simp] theorem State.refreshTick_params : (s.refreshTick).params = s.params := rfl

/-! `loadTx` -/

@[simp] theorem State.loadTx_phase (bs : List Byte) : (s.loadTx bs).phase = s.phase := rfl
@[simp] theorem State.loadTx_istep (bs : List Byte) : (s.loadTx bs).istep = s.istep := rfl
@[simp] theorem State.loadTx_probeA (bs : List Byte) : (s.loadTx bs).probeA = s.probeA := rfl
@[simp] theorem State.loadTx_tries (bs : List Byte) : (s.loadTx bs).tries = s.tries := rfl
@[simp] theorem State.loadTx_bstep (bs : List Byte) : (s.loadTx bs).bstep = s.bstep := rfl
@[simp] theorem State.loadTx_w0 (bs : List Byte) : (s.loadTx bs).w0 = s.w0 := rfl
@[simp] theorem State.loadTx_waitAt (bs : List Byte) : (s.loadTx bs).waitAt = s.waitAt := rfl
@[simp] theorem State.loadTx_delayEnd (bs : List Byte) : (s.loadTx bs).delayEnd = s.delayEnd := rfl
@[simp] theorem State.loadTx_probeRest (bs : List Byte) : (s.loadTx bs).probeRest = s.probeRest := rfl
@[simp] theorem State.loadTx_txAddr (bs : List Byte) : (s.loadTx bs).txAddr = s.txAddr := rfl
@[simp] theorem State.loadTx_txBytes (bs : List Byte) : (s.loadTx bs).txBytes = s.txBytes := rfl
@[simp] theorem State.loadTx_txSpeed (bs : List Byte) : (s.loadTx bs).txSpeed = s.txSpeed := rfl
@[simp] theorem State.loadTx_text (bs : List Byte) : (s.loadTx bs).text = s.text := rfl
@[simp] theorem State.loadTx_bl (bs : List Byte) : (s.loadTx bs).bl = s.bl := rfl
@[simp] theorem State.loadTx_txbuf (bs : List Byte) : (s.loadTx bs).txbuf = Memory.fill txbufBg s.txbuf bs := rfl
@[simp] theorem State.loadTx_stage (bs : List Byte) : (s.loadTx bs).stage = s.stage := rfl
@[simp] theorem State.loadTx_refreshCount (bs : List Byte) : (s.loadTx bs).refreshCount = s.refreshCount := rfl
@[simp] theorem State.loadTx_devAddr (bs : List Byte) : (s.loadTx bs).devAddr = s.devAddr := rfl
@[simp] theorem State.loadTx_oledCyc (bs : List Byte) : (s.loadTx bs).oledCyc = s.oledCyc := rfl
@[simp] theorem State.loadTx_wdtArmed (bs : List Byte) : (s.loadTx bs).wdtArmed = s.wdtArmed := rfl
@[simp] theorem State.loadTx_wdtCnt (bs : List Byte) : (s.loadTx bs).wdtCnt = s.wdtCnt := rfl
@[simp] theorem State.loadTx_toPend (bs : List Byte) : (s.loadTx bs).toPend = s.toPend := rfl
@[simp] theorem State.loadTx_chEn (bs : List Byte) : (s.loadTx bs).chEn = s.chEn := rfl
@[simp] theorem State.loadTx_chPtr (bs : List Byte) : (s.loadTx bs).chPtr = s.chPtr := rfl
@[simp] theorem State.loadTx_chCnt (bs : List Byte) : (s.loadTx bs).chCnt = s.chCnt := rfl
@[simp] theorem State.loadTx_tcPend (bs : List Byte) : (s.loadTx bs).tcPend = s.tcPend := rfl
@[simp] theorem State.loadTx_injPend (bs : List Byte) : (s.loadTx bs).injPend = s.injPend := rfl
@[simp] theorem State.loadTx_evtEn (bs : List Byte) : (s.loadTx bs).evtEn = s.evtEn := rfl
@[simp] theorem State.loadTx_errEn (bs : List Byte) : (s.loadTx bs).errEn = s.errEn := rfl
@[simp] theorem State.loadTx_syncBusy (bs : List Byte) : (s.loadTx bs).syncBusy = s.syncBusy := rfl
@[simp] theorem State.loadTx_syncSeen (bs : List Byte) : (s.loadTx bs).syncSeen = s.syncSeen := rfl
@[simp] theorem State.loadTx_initFailed (bs : List Byte) : (s.loadTx bs).initFailed = s.initFailed := rfl
@[simp] theorem State.loadTx_failCause (bs : List Byte) : (s.loadTx bs).failCause = s.failCause := rfl
@[simp] theorem State.loadTx_busDead (bs : List Byte) : (s.loadTx bs).busDead = s.busDead := rfl
@[simp] theorem State.loadTx_wedgeSeen (bs : List Byte) : (s.loadTx bs).wedgeSeen = s.wedgeSeen := rfl
@[simp] theorem State.loadTx_wedgeStuck (bs : List Byte) : (s.loadTx bs).wedgeStuck = s.wedgeStuck := rfl
@[simp] theorem State.loadTx_cmdErr (bs : List Byte) : (s.loadTx bs).cmdErr = s.cmdErr := rfl
@[simp] theorem State.loadTx_sclMode (bs : List Byte) : (s.loadTx bs).sclMode = s.sclMode := rfl
@[simp] theorem State.loadTx_sclLvl (bs : List Byte) : (s.loadTx bs).sclLvl = s.sclLvl := rfl
@[simp] theorem State.loadTx_sdaMode (bs : List Byte) : (s.loadTx bs).sdaMode = s.sdaMode := rfl
@[simp] theorem State.loadTx_sdaLvl (bs : List Byte) : (s.loadTx bs).sdaLvl = s.sdaLvl := rfl
@[simp] theorem State.loadTx_faultCount (bs : List Byte) : (s.loadTx bs).faultCount = s.faultCount := rfl
@[simp] theorem State.loadTx_lastErrRaw (bs : List Byte) : (s.loadTx bs).lastErrRaw = s.lastErrRaw := rfl
@[simp] theorem State.loadTx_lastErrCause (bs : List Byte) : (s.loadTx bs).lastErrCause = s.lastErrCause := rfl
@[simp] theorem State.loadTx_lastEvt (bs : List Byte) : (s.loadTx bs).lastEvt = s.lastEvt := rfl
@[simp] theorem State.loadTx_link (bs : List Byte) : (s.loadTx bs).link = s.link := rfl
@[simp] theorem State.loadTx_wire (bs : List Byte) : (s.loadTx bs).wire = s.wire := rfl
@[simp] theorem State.loadTx_now (bs : List Byte) : (s.loadTx bs).now = s.now := rfl
@[simp] theorem State.loadTx_busScl (bs : List Byte) : (s.loadTx bs).busScl = s.busScl := rfl
@[simp] theorem State.loadTx_busSda (bs : List Byte) : (s.loadTx bs).busSda = s.busSda := rfl
@[simp] theorem State.loadTx_hostProg (bs : List Byte) : (s.loadTx bs).hostProg = s.hostProg := rfl
@[simp] theorem State.loadTx_hostData (bs : List Byte) : (s.loadTx bs).hostData = s.hostData := rfl
@[simp] theorem State.loadTx_sched (bs : List Byte) : (s.loadTx bs).sched = s.sched := rfl
@[simp] theorem State.loadTx_freeIdx (bs : List Byte) : (s.loadTx bs).freeIdx = s.freeIdx := rfl
@[simp] theorem State.loadTx_params (bs : List Byte) : (s.loadTx bs).params = s.params := rfl

/-! `rejectCmd` -/

@[simp] theorem State.rejectCmd_phase : (s.rejectCmd).phase = s.phase := rfl
@[simp] theorem State.rejectCmd_istep : (s.rejectCmd).istep = s.istep := rfl
@[simp] theorem State.rejectCmd_probeA : (s.rejectCmd).probeA = s.probeA := rfl
@[simp] theorem State.rejectCmd_tries : (s.rejectCmd).tries = s.tries := rfl
@[simp] theorem State.rejectCmd_bstep : (s.rejectCmd).bstep = s.bstep := rfl
@[simp] theorem State.rejectCmd_w0 : (s.rejectCmd).w0 = s.w0 := rfl
@[simp] theorem State.rejectCmd_waitAt : (s.rejectCmd).waitAt = s.waitAt := rfl
@[simp] theorem State.rejectCmd_delayEnd : (s.rejectCmd).delayEnd = s.delayEnd := rfl
@[simp] theorem State.rejectCmd_probeRest : (s.rejectCmd).probeRest = s.probeRest := rfl
@[simp] theorem State.rejectCmd_txAddr : (s.rejectCmd).txAddr = s.txAddr := rfl
@[simp] theorem State.rejectCmd_txBytes : (s.rejectCmd).txBytes = s.txBytes := rfl
@[simp] theorem State.rejectCmd_txSpeed : (s.rejectCmd).txSpeed = s.txSpeed := rfl
@[simp] theorem State.rejectCmd_text : (s.rejectCmd).text = s.text := rfl
@[simp] theorem State.rejectCmd_bl : (s.rejectCmd).bl = s.bl := rfl
@[simp] theorem State.rejectCmd_txbuf : (s.rejectCmd).txbuf = s.txbuf := rfl
@[simp] theorem State.rejectCmd_stage : (s.rejectCmd).stage = s.stage := rfl
@[simp] theorem State.rejectCmd_refreshCount : (s.rejectCmd).refreshCount = s.refreshCount := rfl
@[simp] theorem State.rejectCmd_devAddr : (s.rejectCmd).devAddr = s.devAddr := rfl
@[simp] theorem State.rejectCmd_oledCyc : (s.rejectCmd).oledCyc = s.oledCyc := rfl
@[simp] theorem State.rejectCmd_wdtArmed : (s.rejectCmd).wdtArmed = s.wdtArmed := rfl
@[simp] theorem State.rejectCmd_wdtCnt : (s.rejectCmd).wdtCnt = s.wdtCnt := rfl
@[simp] theorem State.rejectCmd_toPend : (s.rejectCmd).toPend = s.toPend := rfl
@[simp] theorem State.rejectCmd_chEn : (s.rejectCmd).chEn = s.chEn := rfl
@[simp] theorem State.rejectCmd_chPtr : (s.rejectCmd).chPtr = s.chPtr := rfl
@[simp] theorem State.rejectCmd_chCnt : (s.rejectCmd).chCnt = s.chCnt := rfl
@[simp] theorem State.rejectCmd_tcPend : (s.rejectCmd).tcPend = s.tcPend := rfl
@[simp] theorem State.rejectCmd_injPend : (s.rejectCmd).injPend = s.injPend := rfl
@[simp] theorem State.rejectCmd_evtEn : (s.rejectCmd).evtEn = s.evtEn := rfl
@[simp] theorem State.rejectCmd_errEn : (s.rejectCmd).errEn = s.errEn := rfl
@[simp] theorem State.rejectCmd_syncBusy : (s.rejectCmd).syncBusy = s.syncBusy := rfl
@[simp] theorem State.rejectCmd_syncSeen : (s.rejectCmd).syncSeen = s.syncSeen := rfl
@[simp] theorem State.rejectCmd_initFailed : (s.rejectCmd).initFailed = s.initFailed := rfl
@[simp] theorem State.rejectCmd_failCause : (s.rejectCmd).failCause = s.failCause := rfl
@[simp] theorem State.rejectCmd_busDead : (s.rejectCmd).busDead = s.busDead := rfl
@[simp] theorem State.rejectCmd_wedgeSeen : (s.rejectCmd).wedgeSeen = s.wedgeSeen := rfl
@[simp] theorem State.rejectCmd_wedgeStuck : (s.rejectCmd).wedgeStuck = s.wedgeStuck := rfl
@[simp] theorem State.rejectCmd_cmdErr : (s.rejectCmd).cmdErr = true := rfl
@[simp] theorem State.rejectCmd_sclMode : (s.rejectCmd).sclMode = s.sclMode := rfl
@[simp] theorem State.rejectCmd_sclLvl : (s.rejectCmd).sclLvl = s.sclLvl := rfl
@[simp] theorem State.rejectCmd_sdaMode : (s.rejectCmd).sdaMode = s.sdaMode := rfl
@[simp] theorem State.rejectCmd_sdaLvl : (s.rejectCmd).sdaLvl = s.sdaLvl := rfl
@[simp] theorem State.rejectCmd_faultCount : (s.rejectCmd).faultCount = s.faultCount := rfl
@[simp] theorem State.rejectCmd_lastErrRaw : (s.rejectCmd).lastErrRaw = s.lastErrRaw := rfl
@[simp] theorem State.rejectCmd_lastErrCause : (s.rejectCmd).lastErrCause = s.lastErrCause := rfl
@[simp] theorem State.rejectCmd_lastEvt : (s.rejectCmd).lastEvt = s.lastEvt := rfl
@[simp] theorem State.rejectCmd_link : (s.rejectCmd).link = s.link := rfl
@[simp] theorem State.rejectCmd_wire : (s.rejectCmd).wire = s.wire := rfl
@[simp] theorem State.rejectCmd_now : (s.rejectCmd).now = s.now := rfl
@[simp] theorem State.rejectCmd_busScl : (s.rejectCmd).busScl = s.busScl := rfl
@[simp] theorem State.rejectCmd_busSda : (s.rejectCmd).busSda = s.busSda := rfl
@[simp] theorem State.rejectCmd_hostProg : (s.rejectCmd).hostProg = s.hostProg := rfl
@[simp] theorem State.rejectCmd_hostData : (s.rejectCmd).hostData = s.hostData := rfl
@[simp] theorem State.rejectCmd_sched : (s.rejectCmd).sched = s.sched := rfl
@[simp] theorem State.rejectCmd_freeIdx : (s.rejectCmd).freeIdx = s.freeIdx := rfl
@[simp] theorem State.rejectCmd_params : (s.rejectCmd).params = s.params := rfl

/-! `acceptCmd` -/

@[simp] theorem State.acceptCmd_phase : (s.acceptCmd).phase = s.phase := rfl
@[simp] theorem State.acceptCmd_istep : (s.acceptCmd).istep = s.istep := rfl
@[simp] theorem State.acceptCmd_probeA : (s.acceptCmd).probeA = s.probeA := rfl
@[simp] theorem State.acceptCmd_tries : (s.acceptCmd).tries = s.tries := rfl
@[simp] theorem State.acceptCmd_bstep : (s.acceptCmd).bstep = s.bstep := rfl
@[simp] theorem State.acceptCmd_w0 : (s.acceptCmd).w0 = s.w0 := rfl
@[simp] theorem State.acceptCmd_waitAt : (s.acceptCmd).waitAt = s.waitAt := rfl
@[simp] theorem State.acceptCmd_delayEnd : (s.acceptCmd).delayEnd = s.delayEnd := rfl
@[simp] theorem State.acceptCmd_probeRest : (s.acceptCmd).probeRest = s.probeRest := rfl
@[simp] theorem State.acceptCmd_txAddr : (s.acceptCmd).txAddr = s.txAddr := rfl
@[simp] theorem State.acceptCmd_txBytes : (s.acceptCmd).txBytes = s.txBytes := rfl
@[simp] theorem State.acceptCmd_txSpeed : (s.acceptCmd).txSpeed = s.txSpeed := rfl
@[simp] theorem State.acceptCmd_text : (s.acceptCmd).text = s.text := rfl
@[simp] theorem State.acceptCmd_bl : (s.acceptCmd).bl = s.bl := rfl
@[simp] theorem State.acceptCmd_txbuf : (s.acceptCmd).txbuf = s.txbuf := rfl
@[simp] theorem State.acceptCmd_stage : (s.acceptCmd).stage = s.stage := rfl
@[simp] theorem State.acceptCmd_refreshCount : (s.acceptCmd).refreshCount = s.refreshCount := rfl
@[simp] theorem State.acceptCmd_devAddr : (s.acceptCmd).devAddr = s.devAddr := rfl
@[simp] theorem State.acceptCmd_oledCyc : (s.acceptCmd).oledCyc = s.oledCyc := rfl
@[simp] theorem State.acceptCmd_wdtArmed : (s.acceptCmd).wdtArmed = s.wdtArmed := rfl
@[simp] theorem State.acceptCmd_wdtCnt : (s.acceptCmd).wdtCnt = s.wdtCnt := rfl
@[simp] theorem State.acceptCmd_toPend : (s.acceptCmd).toPend = s.toPend := rfl
@[simp] theorem State.acceptCmd_chEn : (s.acceptCmd).chEn = s.chEn := rfl
@[simp] theorem State.acceptCmd_chPtr : (s.acceptCmd).chPtr = s.chPtr := rfl
@[simp] theorem State.acceptCmd_chCnt : (s.acceptCmd).chCnt = s.chCnt := rfl
@[simp] theorem State.acceptCmd_tcPend : (s.acceptCmd).tcPend = s.tcPend := rfl
@[simp] theorem State.acceptCmd_injPend : (s.acceptCmd).injPend = s.injPend := rfl
@[simp] theorem State.acceptCmd_evtEn : (s.acceptCmd).evtEn = s.evtEn := rfl
@[simp] theorem State.acceptCmd_errEn : (s.acceptCmd).errEn = s.errEn := rfl
@[simp] theorem State.acceptCmd_syncBusy : (s.acceptCmd).syncBusy = s.syncBusy := rfl
@[simp] theorem State.acceptCmd_syncSeen : (s.acceptCmd).syncSeen = s.syncSeen := rfl
@[simp] theorem State.acceptCmd_initFailed : (s.acceptCmd).initFailed = s.initFailed := rfl
@[simp] theorem State.acceptCmd_failCause : (s.acceptCmd).failCause = s.failCause := rfl
@[simp] theorem State.acceptCmd_busDead : (s.acceptCmd).busDead = s.busDead := rfl
@[simp] theorem State.acceptCmd_wedgeSeen : (s.acceptCmd).wedgeSeen = s.wedgeSeen := rfl
@[simp] theorem State.acceptCmd_wedgeStuck : (s.acceptCmd).wedgeStuck = s.wedgeStuck := rfl
@[simp] theorem State.acceptCmd_cmdErr : (s.acceptCmd).cmdErr = false := rfl
@[simp] theorem State.acceptCmd_sclMode : (s.acceptCmd).sclMode = s.sclMode := rfl
@[simp] theorem State.acceptCmd_sclLvl : (s.acceptCmd).sclLvl = s.sclLvl := rfl
@[simp] theorem State.acceptCmd_sdaMode : (s.acceptCmd).sdaMode = s.sdaMode := rfl
@[simp] theorem State.acceptCmd_sdaLvl : (s.acceptCmd).sdaLvl = s.sdaLvl := rfl
@[simp] theorem State.acceptCmd_faultCount : (s.acceptCmd).faultCount = s.faultCount := rfl
@[simp] theorem State.acceptCmd_lastErrRaw : (s.acceptCmd).lastErrRaw = s.lastErrRaw := rfl
@[simp] theorem State.acceptCmd_lastErrCause : (s.acceptCmd).lastErrCause = s.lastErrCause := rfl
@[simp] theorem State.acceptCmd_lastEvt : (s.acceptCmd).lastEvt = s.lastEvt := rfl
@[simp] theorem State.acceptCmd_link : (s.acceptCmd).link = s.link := rfl
@[simp] theorem State.acceptCmd_wire : (s.acceptCmd).wire = s.wire := rfl
@[simp] theorem State.acceptCmd_now : (s.acceptCmd).now = s.now := rfl
@[simp] theorem State.acceptCmd_busScl : (s.acceptCmd).busScl = s.busScl := rfl
@[simp] theorem State.acceptCmd_busSda : (s.acceptCmd).busSda = s.busSda := rfl
@[simp] theorem State.acceptCmd_hostProg : (s.acceptCmd).hostProg = s.hostProg := rfl
@[simp] theorem State.acceptCmd_hostData : (s.acceptCmd).hostData = s.hostData := rfl
@[simp] theorem State.acceptCmd_sched : (s.acceptCmd).sched = s.sched := rfl
@[simp] theorem State.acceptCmd_freeIdx : (s.acceptCmd).freeIdx = s.freeIdx := rfl
@[simp] theorem State.acceptCmd_params : (s.acceptCmd).params = s.params := rfl

/-! `notifyOff` -/

@[simp] theorem State.notifyOff_phase : (s.notifyOff).phase = s.phase := rfl
@[simp] theorem State.notifyOff_istep : (s.notifyOff).istep = s.istep := rfl
@[simp] theorem State.notifyOff_probeA : (s.notifyOff).probeA = s.probeA := rfl
@[simp] theorem State.notifyOff_tries : (s.notifyOff).tries = s.tries := rfl
@[simp] theorem State.notifyOff_bstep : (s.notifyOff).bstep = s.bstep := rfl
@[simp] theorem State.notifyOff_w0 : (s.notifyOff).w0 = s.w0 := rfl
@[simp] theorem State.notifyOff_waitAt : (s.notifyOff).waitAt = s.waitAt := rfl
@[simp] theorem State.notifyOff_delayEnd : (s.notifyOff).delayEnd = s.delayEnd := rfl
@[simp] theorem State.notifyOff_probeRest : (s.notifyOff).probeRest = s.probeRest := rfl
@[simp] theorem State.notifyOff_txAddr : (s.notifyOff).txAddr = s.txAddr := rfl
@[simp] theorem State.notifyOff_txBytes : (s.notifyOff).txBytes = s.txBytes := rfl
@[simp] theorem State.notifyOff_txSpeed : (s.notifyOff).txSpeed = s.txSpeed := rfl
@[simp] theorem State.notifyOff_text : (s.notifyOff).text = s.text := rfl
@[simp] theorem State.notifyOff_bl : (s.notifyOff).bl = s.bl := rfl
@[simp] theorem State.notifyOff_txbuf : (s.notifyOff).txbuf = s.txbuf := rfl
@[simp] theorem State.notifyOff_stage : (s.notifyOff).stage = s.stage := rfl
@[simp] theorem State.notifyOff_refreshCount : (s.notifyOff).refreshCount = s.refreshCount := rfl
@[simp] theorem State.notifyOff_devAddr : (s.notifyOff).devAddr = s.devAddr := rfl
@[simp] theorem State.notifyOff_oledCyc : (s.notifyOff).oledCyc = s.oledCyc := rfl
@[simp] theorem State.notifyOff_wdtArmed : (s.notifyOff).wdtArmed = s.wdtArmed := rfl
@[simp] theorem State.notifyOff_wdtCnt : (s.notifyOff).wdtCnt = s.wdtCnt := rfl
@[simp] theorem State.notifyOff_toPend : (s.notifyOff).toPend = s.toPend := rfl
@[simp] theorem State.notifyOff_chEn : (s.notifyOff).chEn = s.chEn := rfl
@[simp] theorem State.notifyOff_chPtr : (s.notifyOff).chPtr = s.chPtr := rfl
@[simp] theorem State.notifyOff_chCnt : (s.notifyOff).chCnt = s.chCnt := rfl
@[simp] theorem State.notifyOff_tcPend : (s.notifyOff).tcPend = s.tcPend := rfl
@[simp] theorem State.notifyOff_injPend : (s.notifyOff).injPend = s.injPend := rfl
@[simp] theorem State.notifyOff_evtEn : (s.notifyOff).evtEn = false := rfl
@[simp] theorem State.notifyOff_errEn : (s.notifyOff).errEn = false := rfl
@[simp] theorem State.notifyOff_syncBusy : (s.notifyOff).syncBusy = s.syncBusy := rfl
@[simp] theorem State.notifyOff_syncSeen : (s.notifyOff).syncSeen = s.syncSeen := rfl
@[simp] theorem State.notifyOff_initFailed : (s.notifyOff).initFailed = s.initFailed := rfl
@[simp] theorem State.notifyOff_failCause : (s.notifyOff).failCause = s.failCause := rfl
@[simp] theorem State.notifyOff_busDead : (s.notifyOff).busDead = s.busDead := rfl
@[simp] theorem State.notifyOff_wedgeSeen : (s.notifyOff).wedgeSeen = s.wedgeSeen := rfl
@[simp] theorem State.notifyOff_wedgeStuck : (s.notifyOff).wedgeStuck = s.wedgeStuck := rfl
@[simp] theorem State.notifyOff_cmdErr : (s.notifyOff).cmdErr = s.cmdErr := rfl
@[simp] theorem State.notifyOff_sclMode : (s.notifyOff).sclMode = s.sclMode := rfl
@[simp] theorem State.notifyOff_sclLvl : (s.notifyOff).sclLvl = s.sclLvl := rfl
@[simp] theorem State.notifyOff_sdaMode : (s.notifyOff).sdaMode = s.sdaMode := rfl
@[simp] theorem State.notifyOff_sdaLvl : (s.notifyOff).sdaLvl = s.sdaLvl := rfl
@[simp] theorem State.notifyOff_faultCount : (s.notifyOff).faultCount = s.faultCount := rfl
@[simp] theorem State.notifyOff_lastErrRaw : (s.notifyOff).lastErrRaw = s.lastErrRaw := rfl
@[simp] theorem State.notifyOff_lastErrCause : (s.notifyOff).lastErrCause = s.lastErrCause := rfl
@[simp] theorem State.notifyOff_lastEvt : (s.notifyOff).lastEvt = s.lastEvt := rfl
@[simp] theorem State.notifyOff_link : (s.notifyOff).link = s.link := rfl
@[simp] theorem State.notifyOff_wire : (s.notifyOff).wire = s.wire := rfl
@[simp] theorem State.notifyOff_now : (s.notifyOff).now = s.now := rfl
@[simp] theorem State.notifyOff_busScl : (s.notifyOff).busScl = s.busScl := rfl
@[simp] theorem State.notifyOff_busSda : (s.notifyOff).busSda = s.busSda := rfl
@[simp] theorem State.notifyOff_hostProg : (s.notifyOff).hostProg = s.hostProg := rfl
@[simp] theorem State.notifyOff_hostData : (s.notifyOff).hostData = s.hostData := rfl
@[simp] theorem State.notifyOff_sched : (s.notifyOff).sched = s.sched := rfl
@[simp] theorem State.notifyOff_freeIdx : (s.notifyOff).freeIdx = s.freeIdx := rfl
@[simp] theorem State.notifyOff_params : (s.notifyOff).params = s.params := rfl

/-! `recordFault` -/

@[simp] theorem State.recordFault_phase (c : ErrCause) : (s.recordFault c).phase = s.phase := rfl
@[simp] theorem State.recordFault_istep (c : ErrCause) : (s.recordFault c).istep = s.istep := rfl
@[simp] theorem State.recordFault_probeA (c : ErrCause) : (s.recordFault c).probeA = s.probeA := rfl
@[simp] theorem State.recordFault_tries (c : ErrCause) : (s.recordFault c).tries = s.tries := rfl
@[simp] theorem State.recordFault_bstep (c : ErrCause) : (s.recordFault c).bstep = s.bstep := rfl
@[simp] theorem State.recordFault_w0 (c : ErrCause) : (s.recordFault c).w0 = s.w0 := rfl
@[simp] theorem State.recordFault_waitAt (c : ErrCause) : (s.recordFault c).waitAt = s.waitAt := rfl
@[simp] theorem State.recordFault_delayEnd (c : ErrCause) : (s.recordFault c).delayEnd = s.delayEnd := rfl
@[simp] theorem State.recordFault_probeRest (c : ErrCause) : (s.recordFault c).probeRest = s.probeRest := rfl
@[simp] theorem State.recordFault_txAddr (c : ErrCause) : (s.recordFault c).txAddr = s.txAddr := rfl
@[simp] theorem State.recordFault_txBytes (c : ErrCause) : (s.recordFault c).txBytes = s.txBytes := rfl
@[simp] theorem State.recordFault_txSpeed (c : ErrCause) : (s.recordFault c).txSpeed = s.txSpeed := rfl
@[simp] theorem State.recordFault_text (c : ErrCause) : (s.recordFault c).text = s.text := rfl
@[simp] theorem State.recordFault_bl (c : ErrCause) : (s.recordFault c).bl = s.bl := rfl
@[simp] theorem State.recordFault_txbuf (c : ErrCause) : (s.recordFault c).txbuf = s.txbuf := rfl
@[simp] theorem State.recordFault_stage (c : ErrCause) : (s.recordFault c).stage = s.stage := rfl
@[simp] theorem State.recordFault_refreshCount (c : ErrCause) : (s.recordFault c).refreshCount = s.refreshCount := rfl
@[simp] theorem State.recordFault_devAddr (c : ErrCause) : (s.recordFault c).devAddr = s.devAddr := rfl
@[simp] theorem State.recordFault_oledCyc (c : ErrCause) : (s.recordFault c).oledCyc = s.oledCyc := rfl
@[simp] theorem State.recordFault_wdtArmed (c : ErrCause) : (s.recordFault c).wdtArmed = s.wdtArmed := rfl
@[simp] theorem State.recordFault_wdtCnt (c : ErrCause) : (s.recordFault c).wdtCnt = s.wdtCnt := rfl
@[simp] theorem State.recordFault_toPend (c : ErrCause) : (s.recordFault c).toPend = s.toPend := rfl
@[simp] theorem State.recordFault_chEn (c : ErrCause) : (s.recordFault c).chEn = s.chEn := rfl
@[simp] theorem State.recordFault_chPtr (c : ErrCause) : (s.recordFault c).chPtr = s.chPtr := rfl
@[simp] theorem State.recordFault_chCnt (c : ErrCause) : (s.recordFault c).chCnt = s.chCnt := rfl
@[simp] theorem State.recordFault_tcPend (c : ErrCause) : (s.recordFault c).tcPend = s.tcPend := rfl
@[simp] theorem State.recordFault_injPend (c : ErrCause) : (s.recordFault c).injPend = s.injPend := rfl
@[simp] theorem State.recordFault_evtEn (c : ErrCause) : (s.recordFault c).evtEn = s.evtEn := rfl
@[simp] theorem State.recordFault_errEn (c : ErrCause) : (s.recordFault c).errEn = s.errEn := rfl
@[simp] theorem State.recordFault_syncBusy (c : ErrCause) : (s.recordFault c).syncBusy = s.syncBusy := rfl
@[simp] theorem State.recordFault_syncSeen (c : ErrCause) : (s.recordFault c).syncSeen = s.syncSeen := rfl
@[simp] theorem State.recordFault_initFailed (c : ErrCause) : (s.recordFault c).initFailed = s.initFailed := rfl
@[simp] theorem State.recordFault_failCause (c : ErrCause) : (s.recordFault c).failCause = s.failCause := rfl
@[simp] theorem State.recordFault_busDead (c : ErrCause) : (s.recordFault c).busDead = s.busDead := rfl
@[simp] theorem State.recordFault_wedgeSeen (c : ErrCause) : (s.recordFault c).wedgeSeen = s.wedgeSeen := rfl
@[simp] theorem State.recordFault_wedgeStuck (c : ErrCause) : (s.recordFault c).wedgeStuck = s.wedgeStuck := rfl
@[simp] theorem State.recordFault_cmdErr (c : ErrCause) : (s.recordFault c).cmdErr = s.cmdErr := rfl
@[simp] theorem State.recordFault_sclMode (c : ErrCause) : (s.recordFault c).sclMode = s.sclMode := rfl
@[simp] theorem State.recordFault_sclLvl (c : ErrCause) : (s.recordFault c).sclLvl = s.sclLvl := rfl
@[simp] theorem State.recordFault_sdaMode (c : ErrCause) : (s.recordFault c).sdaMode = s.sdaMode := rfl
@[simp] theorem State.recordFault_sdaLvl (c : ErrCause) : (s.recordFault c).sdaLvl = s.sdaLvl := rfl
@[simp] theorem State.recordFault_faultCount (c : ErrCause) : (s.recordFault c).faultCount = s.faultCount + 1 := rfl
@[simp] theorem State.recordFault_lastErrRaw (c : ErrCause) : (s.recordFault c).lastErrRaw = s.link.err := rfl
@[simp] theorem State.recordFault_lastErrCause (c : ErrCause) : (s.recordFault c).lastErrCause = c := rfl
@[simp] theorem State.recordFault_lastEvt (c : ErrCause) : (s.recordFault c).lastEvt = s.lastEvt := rfl
@[simp] theorem State.recordFault_link (c : ErrCause) : (s.recordFault c).link = s.link := rfl
@[simp] theorem State.recordFault_wire (c : ErrCause) : (s.recordFault c).wire = s.wire := rfl
@[simp] theorem State.recordFault_now (c : ErrCause) : (s.recordFault c).now = s.now := rfl
@[simp] theorem State.recordFault_busScl (c : ErrCause) : (s.recordFault c).busScl = s.busScl := rfl
@[simp] theorem State.recordFault_busSda (c : ErrCause) : (s.recordFault c).busSda = s.busSda := rfl
@[simp] theorem State.recordFault_hostProg (c : ErrCause) : (s.recordFault c).hostProg = s.hostProg := rfl
@[simp] theorem State.recordFault_hostData (c : ErrCause) : (s.recordFault c).hostData = s.hostData := rfl
@[simp] theorem State.recordFault_sched (c : ErrCause) : (s.recordFault c).sched = s.sched := rfl
@[simp] theorem State.recordFault_freeIdx (c : ErrCause) : (s.recordFault c).freeIdx = s.freeIdx := rfl
@[simp] theorem State.recordFault_params (c : ErrCause) : (s.recordFault c).params = s.params := rfl

/-! `hold` -/

@[simp] theorem State.hold_phase (n : Nat) (p : WaitPoint) : (s.hold n p).phase = s.phase := rfl
@[simp] theorem State.hold_istep (n : Nat) (p : WaitPoint) : (s.hold n p).istep = s.istep := rfl
@[simp] theorem State.hold_probeA (n : Nat) (p : WaitPoint) : (s.hold n p).probeA = s.probeA := rfl
@[simp] theorem State.hold_tries (n : Nat) (p : WaitPoint) : (s.hold n p).tries = s.tries := rfl
@[simp] theorem State.hold_bstep (n : Nat) (p : WaitPoint) : (s.hold n p).bstep = s.bstep := rfl
@[simp] theorem State.hold_w0 (n : Nat) (p : WaitPoint) : (s.hold n p).w0 = s.w0 := rfl
@[simp] theorem State.hold_waitAt (n : Nat) (p : WaitPoint) : (s.hold n p).waitAt = p := rfl
@[simp] theorem State.hold_delayEnd (n : Nat) (p : WaitPoint) : (s.hold n p).delayEnd = s.now + n := rfl
@[simp] theorem State.hold_probeRest (n : Nat) (p : WaitPoint) : (s.hold n p).probeRest = s.probeRest := rfl
@[simp] theorem State.hold_txAddr (n : Nat) (p : WaitPoint) : (s.hold n p).txAddr = s.txAddr := rfl
@[simp] theorem State.hold_txBytes (n : Nat) (p : WaitPoint) : (s.hold n p).txBytes = s.txBytes := rfl
@[simp] theorem State.hold_txSpeed (n : Nat) (p : WaitPoint) : (s.hold n p).txSpeed = s.txSpeed := rfl
@[simp] theorem State.hold_text (n : Nat) (p : WaitPoint) : (s.hold n p).text = s.text := rfl
@[simp] theorem State.hold_bl (n : Nat) (p : WaitPoint) : (s.hold n p).bl = s.bl := rfl
@[simp] theorem State.hold_txbuf (n : Nat) (p : WaitPoint) : (s.hold n p).txbuf = s.txbuf := rfl
@[simp] theorem State.hold_stage (n : Nat) (p : WaitPoint) : (s.hold n p).stage = s.stage := rfl
@[simp] theorem State.hold_refreshCount (n : Nat) (p : WaitPoint) : (s.hold n p).refreshCount = s.refreshCount := rfl
@[simp] theorem State.hold_devAddr (n : Nat) (p : WaitPoint) : (s.hold n p).devAddr = s.devAddr := rfl
@[simp] theorem State.hold_oledCyc (n : Nat) (p : WaitPoint) : (s.hold n p).oledCyc = s.oledCyc := rfl
@[simp] theorem State.hold_wdtArmed (n : Nat) (p : WaitPoint) : (s.hold n p).wdtArmed = s.wdtArmed := rfl
@[simp] theorem State.hold_wdtCnt (n : Nat) (p : WaitPoint) : (s.hold n p).wdtCnt = s.wdtCnt := rfl
@[simp] theorem State.hold_toPend (n : Nat) (p : WaitPoint) : (s.hold n p).toPend = s.toPend := rfl
@[simp] theorem State.hold_chEn (n : Nat) (p : WaitPoint) : (s.hold n p).chEn = s.chEn := rfl
@[simp] theorem State.hold_chPtr (n : Nat) (p : WaitPoint) : (s.hold n p).chPtr = s.chPtr := rfl
@[simp] theorem State.hold_chCnt (n : Nat) (p : WaitPoint) : (s.hold n p).chCnt = s.chCnt := rfl
@[simp] theorem State.hold_tcPend (n : Nat) (p : WaitPoint) : (s.hold n p).tcPend = s.tcPend := rfl
@[simp] theorem State.hold_injPend (n : Nat) (p : WaitPoint) : (s.hold n p).injPend = s.injPend := rfl
@[simp] theorem State.hold_evtEn (n : Nat) (p : WaitPoint) : (s.hold n p).evtEn = s.evtEn := rfl
@[simp] theorem State.hold_errEn (n : Nat) (p : WaitPoint) : (s.hold n p).errEn = s.errEn := rfl
@[simp] theorem State.hold_syncBusy (n : Nat) (p : WaitPoint) : (s.hold n p).syncBusy = s.syncBusy := rfl
@[simp] theorem State.hold_syncSeen (n : Nat) (p : WaitPoint) : (s.hold n p).syncSeen = s.syncSeen := rfl
@[simp] theorem State.hold_initFailed (n : Nat) (p : WaitPoint) : (s.hold n p).initFailed = s.initFailed := rfl
@[simp] theorem State.hold_failCause (n : Nat) (p : WaitPoint) : (s.hold n p).failCause = s.failCause := rfl
@[simp] theorem State.hold_busDead (n : Nat) (p : WaitPoint) : (s.hold n p).busDead = s.busDead := rfl
@[simp] theorem State.hold_wedgeSeen (n : Nat) (p : WaitPoint) : (s.hold n p).wedgeSeen = s.wedgeSeen := rfl
@[simp] theorem State.hold_wedgeStuck (n : Nat) (p : WaitPoint) : (s.hold n p).wedgeStuck = s.wedgeStuck := rfl
@[simp] theorem State.hold_cmdErr (n : Nat) (p : WaitPoint) : (s.hold n p).cmdErr = s.cmdErr := rfl
@[simp] theorem State.hold_sclMode (n : Nat) (p : WaitPoint) : (s.hold n p).sclMode = s.sclMode := rfl
@[simp] theorem State.hold_sclLvl (n : Nat) (p : WaitPoint) : (s.hold n p).sclLvl = s.sclLvl := rfl
@[simp] theorem State.hold_sdaMode (n : Nat) (p : WaitPoint) : (s.hold n p).sdaMode = s.sdaMode := rfl
@[simp] theorem State.hold_sdaLvl (n : Nat) (p : WaitPoint) : (s.hold n p).sdaLvl = s.sdaLvl := rfl
@[simp] theorem State.hold_faultCount (n : Nat) (p : WaitPoint) : (s.hold n p).faultCount = s.faultCount := rfl
@[simp] theorem State.hold_lastErrRaw (n : Nat) (p : WaitPoint) : (s.hold n p).lastErrRaw = s.lastErrRaw := rfl
@[simp] theorem State.hold_lastErrCause (n : Nat) (p : WaitPoint) : (s.hold n p).lastErrCause = s.lastErrCause := rfl
@[simp] theorem State.hold_lastEvt (n : Nat) (p : WaitPoint) : (s.hold n p).lastEvt = s.lastEvt := rfl
@[simp] theorem State.hold_link (n : Nat) (p : WaitPoint) : (s.hold n p).link = s.link := rfl
@[simp] theorem State.hold_wire (n : Nat) (p : WaitPoint) : (s.hold n p).wire = s.wire := rfl
@[simp] theorem State.hold_now (n : Nat) (p : WaitPoint) : (s.hold n p).now = s.now := rfl
@[simp] theorem State.hold_busScl (n : Nat) (p : WaitPoint) : (s.hold n p).busScl = s.busScl := rfl
@[simp] theorem State.hold_busSda (n : Nat) (p : WaitPoint) : (s.hold n p).busSda = s.busSda := rfl
@[simp] theorem State.hold_hostProg (n : Nat) (p : WaitPoint) : (s.hold n p).hostProg = s.hostProg := rfl
@[simp] theorem State.hold_hostData (n : Nat) (p : WaitPoint) : (s.hold n p).hostData = s.hostData := rfl
@[simp] theorem State.hold_sched (n : Nat) (p : WaitPoint) : (s.hold n p).sched = s.sched := rfl
@[simp] theorem State.hold_freeIdx (n : Nat) (p : WaitPoint) : (s.hold n p).freeIdx = s.freeIdx := rfl
@[simp] theorem State.hold_params (n : Nat) (p : WaitPoint) : (s.hold n p).params = s.params := rfl

/-! `beginWait` -/

@[simp] theorem State.beginWait_phase (p : WaitPoint) : (s.beginWait p).phase = s.phase := rfl
@[simp] theorem State.beginWait_istep (p : WaitPoint) : (s.beginWait p).istep = s.istep := rfl
@[simp] theorem State.beginWait_probeA (p : WaitPoint) : (s.beginWait p).probeA = s.probeA := rfl
@[simp] theorem State.beginWait_tries (p : WaitPoint) : (s.beginWait p).tries = s.tries := rfl
@[simp] theorem State.beginWait_bstep (p : WaitPoint) : (s.beginWait p).bstep = s.bstep := rfl
@[simp] theorem State.beginWait_w0 (p : WaitPoint) : (s.beginWait p).w0 = s.now := rfl
@[simp] theorem State.beginWait_waitAt (p : WaitPoint) : (s.beginWait p).waitAt = p := rfl
@[simp] theorem State.beginWait_delayEnd (p : WaitPoint) : (s.beginWait p).delayEnd = s.delayEnd := rfl
@[simp] theorem State.beginWait_probeRest (p : WaitPoint) : (s.beginWait p).probeRest = s.probeRest := rfl
@[simp] theorem State.beginWait_txAddr (p : WaitPoint) : (s.beginWait p).txAddr = s.txAddr := rfl
@[simp] theorem State.beginWait_txBytes (p : WaitPoint) : (s.beginWait p).txBytes = s.txBytes := rfl
@[simp] theorem State.beginWait_txSpeed (p : WaitPoint) : (s.beginWait p).txSpeed = s.txSpeed := rfl
@[simp] theorem State.beginWait_text (p : WaitPoint) : (s.beginWait p).text = s.text := rfl
@[simp] theorem State.beginWait_bl (p : WaitPoint) : (s.beginWait p).bl = s.bl := rfl
@[simp] theorem State.beginWait_txbuf (p : WaitPoint) : (s.beginWait p).txbuf = s.txbuf := rfl
@[simp] theorem State.beginWait_stage (p : WaitPoint) : (s.beginWait p).stage = s.stage := rfl
@[simp] theorem State.beginWait_refreshCount (p : WaitPoint) : (s.beginWait p).refreshCount = s.refreshCount := rfl
@[simp] theorem State.beginWait_devAddr (p : WaitPoint) : (s.beginWait p).devAddr = s.devAddr := rfl
@[simp] theorem State.beginWait_oledCyc (p : WaitPoint) : (s.beginWait p).oledCyc = s.oledCyc := rfl
@[simp] theorem State.beginWait_wdtArmed (p : WaitPoint) : (s.beginWait p).wdtArmed = s.wdtArmed := rfl
@[simp] theorem State.beginWait_wdtCnt (p : WaitPoint) : (s.beginWait p).wdtCnt = s.wdtCnt := rfl
@[simp] theorem State.beginWait_toPend (p : WaitPoint) : (s.beginWait p).toPend = s.toPend := rfl
@[simp] theorem State.beginWait_chEn (p : WaitPoint) : (s.beginWait p).chEn = s.chEn := rfl
@[simp] theorem State.beginWait_chPtr (p : WaitPoint) : (s.beginWait p).chPtr = s.chPtr := rfl
@[simp] theorem State.beginWait_chCnt (p : WaitPoint) : (s.beginWait p).chCnt = s.chCnt := rfl
@[simp] theorem State.beginWait_tcPend (p : WaitPoint) : (s.beginWait p).tcPend = s.tcPend := rfl
@[simp] theorem State.beginWait_injPend (p : WaitPoint) : (s.beginWait p).injPend = s.injPend := rfl
@[simp] theorem State.beginWait_evtEn (p : WaitPoint) : (s.beginWait p).evtEn = s.evtEn := rfl
@[simp] theorem State.beginWait_errEn (p : WaitPoint) : (s.beginWait p).errEn = s.errEn := rfl
@[simp] theorem State.beginWait_syncBusy (p : WaitPoint) : (s.beginWait p).syncBusy = s.syncBusy := rfl
@[simp] theorem State.beginWait_syncSeen (p : WaitPoint) : (s.beginWait p).syncSeen = s.syncSeen := rfl
@[simp] theorem State.beginWait_initFailed (p : WaitPoint) : (s.beginWait p).initFailed = s.initFailed := rfl
@[simp] theorem State.beginWait_failCause (p : WaitPoint) : (s.beginWait p).failCause = s.failCause := rfl
@[simp] theorem State.beginWait_busDead (p : WaitPoint) : (s.beginWait p).busDead = s.busDead := rfl
@[simp] theorem State.beginWait_wedgeSeen (p : WaitPoint) : (s.beginWait p).wedgeSeen = s.wedgeSeen := rfl
@[simp] theorem State.beginWait_wedgeStuck (p : WaitPoint) : (s.beginWait p).wedgeStuck = s.wedgeStuck := rfl
@[simp] theorem State.beginWait_cmdErr (p : WaitPoint) : (s.beginWait p).cmdErr = s.cmdErr := rfl
@[simp] theorem State.beginWait_sclMode (p : WaitPoint) : (s.beginWait p).sclMode = s.sclMode := rfl
@[simp] theorem State.beginWait_sclLvl (p : WaitPoint) : (s.beginWait p).sclLvl = s.sclLvl := rfl
@[simp] theorem State.beginWait_sdaMode (p : WaitPoint) : (s.beginWait p).sdaMode = s.sdaMode := rfl
@[simp] theorem State.beginWait_sdaLvl (p : WaitPoint) : (s.beginWait p).sdaLvl = s.sdaLvl := rfl
@[simp] theorem State.beginWait_faultCount (p : WaitPoint) : (s.beginWait p).faultCount = s.faultCount := rfl
@[simp] theorem State.beginWait_lastErrRaw (p : WaitPoint) : (s.beginWait p).lastErrRaw = s.lastErrRaw := rfl
@[simp] theorem State.beginWait_lastErrCause (p : WaitPoint) : (s.beginWait p).lastErrCause = s.lastErrCause := rfl
@[simp] theorem State.beginWait_lastEvt (p : WaitPoint) : (s.beginWait p).lastEvt = s.lastEvt := rfl
@[simp] theorem State.beginWait_link (p : WaitPoint) : (s.beginWait p).link = s.link := rfl
@[simp] theorem State.beginWait_wire (p : WaitPoint) : (s.beginWait p).wire = s.wire := rfl
@[simp] theorem State.beginWait_now (p : WaitPoint) : (s.beginWait p).now = s.now := rfl
@[simp] theorem State.beginWait_busScl (p : WaitPoint) : (s.beginWait p).busScl = s.busScl := rfl
@[simp] theorem State.beginWait_busSda (p : WaitPoint) : (s.beginWait p).busSda = s.busSda := rfl
@[simp] theorem State.beginWait_hostProg (p : WaitPoint) : (s.beginWait p).hostProg = s.hostProg := rfl
@[simp] theorem State.beginWait_hostData (p : WaitPoint) : (s.beginWait p).hostData = s.hostData := rfl
@[simp] theorem State.beginWait_sched (p : WaitPoint) : (s.beginWait p).sched = s.sched := rfl
@[simp] theorem State.beginWait_freeIdx (p : WaitPoint) : (s.beginWait p).freeIdx = s.freeIdx := rfl
@[simp] theorem State.beginWait_params (p : WaitPoint) : (s.beginWait p).params = s.params := rfl

/-! `tookEvent` -/

@[simp] theorem State.tookEvent_phase (e : Event) : (s.tookEvent e).phase = s.phase := rfl
@[simp] theorem State.tookEvent_istep (e : Event) : (s.tookEvent e).istep = s.istep := rfl
@[simp] theorem State.tookEvent_probeA (e : Event) : (s.tookEvent e).probeA = s.probeA := rfl
@[simp] theorem State.tookEvent_tries (e : Event) : (s.tookEvent e).tries = s.tries := rfl
@[simp] theorem State.tookEvent_bstep (e : Event) : (s.tookEvent e).bstep = s.bstep := rfl
@[simp] theorem State.tookEvent_w0 (e : Event) : (s.tookEvent e).w0 = s.w0 := rfl
@[simp] theorem State.tookEvent_waitAt (e : Event) : (s.tookEvent e).waitAt = s.waitAt := rfl
@[simp] theorem State.tookEvent_delayEnd (e : Event) : (s.tookEvent e).delayEnd = s.delayEnd := rfl
@[simp] theorem State.tookEvent_probeRest (e : Event) : (s.tookEvent e).probeRest = s.probeRest := rfl
@[simp] theorem State.tookEvent_txAddr (e : Event) : (s.tookEvent e).txAddr = s.txAddr := rfl
@[simp] theorem State.tookEvent_txBytes (e : Event) : (s.tookEvent e).txBytes = s.txBytes := rfl
@[simp] theorem State.tookEvent_txSpeed (e : Event) : (s.tookEvent e).txSpeed = s.txSpeed := rfl
@[simp] theorem State.tookEvent_text (e : Event) : (s.tookEvent e).text = s.text := rfl
@[simp] theorem State.tookEvent_bl (e : Event) : (s.tookEvent e).bl = s.bl := rfl
@[simp] theorem State.tookEvent_txbuf (e : Event) : (s.tookEvent e).txbuf = s.txbuf := rfl
@[simp] theorem State.tookEvent_stage (e : Event) : (s.tookEvent e).stage = s.stage := rfl
@[simp] theorem State.tookEvent_refreshCount (e : Event) : (s.tookEvent e).refreshCount = s.refreshCount := rfl
@[simp] theorem State.tookEvent_devAddr (e : Event) : (s.tookEvent e).devAddr = s.devAddr := rfl
@[simp] theorem State.tookEvent_oledCyc (e : Event) : (s.tookEvent e).oledCyc = s.oledCyc := rfl
@[simp] theorem State.tookEvent_wdtArmed (e : Event) : (s.tookEvent e).wdtArmed = s.wdtArmed := rfl
@[simp] theorem State.tookEvent_wdtCnt (e : Event) : (s.tookEvent e).wdtCnt = s.wdtCnt := rfl
@[simp] theorem State.tookEvent_toPend (e : Event) : (s.tookEvent e).toPend = s.toPend := rfl
@[simp] theorem State.tookEvent_chEn (e : Event) : (s.tookEvent e).chEn = s.chEn := rfl
@[simp] theorem State.tookEvent_chPtr (e : Event) : (s.tookEvent e).chPtr = s.chPtr := rfl
@[simp] theorem State.tookEvent_chCnt (e : Event) : (s.tookEvent e).chCnt = s.chCnt := rfl
@[simp] theorem State.tookEvent_tcPend (e : Event) : (s.tookEvent e).tcPend = s.tcPend := rfl
@[simp] theorem State.tookEvent_injPend (e : Event) : (s.tookEvent e).injPend = s.injPend := rfl
@[simp] theorem State.tookEvent_evtEn (e : Event) : (s.tookEvent e).evtEn = s.evtEn := rfl
@[simp] theorem State.tookEvent_errEn (e : Event) : (s.tookEvent e).errEn = s.errEn := rfl
@[simp] theorem State.tookEvent_syncBusy (e : Event) : (s.tookEvent e).syncBusy = s.syncBusy := rfl
@[simp] theorem State.tookEvent_syncSeen (e : Event) : (s.tookEvent e).syncSeen = s.syncSeen := rfl
@[simp] theorem State.tookEvent_initFailed (e : Event) : (s.tookEvent e).initFailed = s.initFailed := rfl
@[simp] theorem State.tookEvent_failCause (e : Event) : (s.tookEvent e).failCause = s.failCause := rfl
@[simp] theorem State.tookEvent_busDead (e : Event) : (s.tookEvent e).busDead = s.busDead := rfl
@[simp] theorem State.tookEvent_wedgeSeen (e : Event) : (s.tookEvent e).wedgeSeen = s.wedgeSeen := rfl
@[simp] theorem State.tookEvent_wedgeStuck (e : Event) : (s.tookEvent e).wedgeStuck = s.wedgeStuck := rfl
@[simp] theorem State.tookEvent_cmdErr (e : Event) : (s.tookEvent e).cmdErr = s.cmdErr := rfl
@[simp] theorem State.tookEvent_sclMode (e : Event) : (s.tookEvent e).sclMode = s.sclMode := rfl
@[simp] theorem State.tookEvent_sclLvl (e : Event) : (s.tookEvent e).sclLvl = s.sclLvl := rfl
@[simp] theorem State.tookEvent_sdaMode (e : Event) : (s.tookEvent e).sdaMode = s.sdaMode := rfl
@[simp] theorem State.tookEvent_sdaLvl (e : Event) : (s.tookEvent e).sdaLvl = s.sdaLvl := rfl
@[simp] theorem State.tookEvent_faultCount (e : Event) : (s.tookEvent e).faultCount = s.faultCount := rfl
@[simp] theorem State.tookEvent_lastErrRaw (e : Event) : (s.tookEvent e).lastErrRaw = s.lastErrRaw := rfl
@[simp] theorem State.tookEvent_lastErrCause (e : Event) : (s.tookEvent e).lastErrCause = s.lastErrCause := rfl
@[simp] theorem State.tookEvent_lastEvt (e : Event) : (s.tookEvent e).lastEvt = some e := rfl
@[simp] theorem State.tookEvent_link (e : Event) : (s.tookEvent e).link = s.link := rfl
@[simp] theorem State.tookEvent_wire (e : Event) : (s.tookEvent e).wire = s.wire := rfl
@[simp] theorem State.tookEvent_now (e : Event) : (s.tookEvent e).now = s.now := rfl
@[simp] theorem State.tookEvent_busScl (e : Event) : (s.tookEvent e).busScl = s.busScl := rfl
@[simp] theorem State.tookEvent_busSda (e : Event) : (s.tookEvent e).busSda = s.busSda := rfl
@[simp] theorem State.tookEvent_hostProg (e : Event) : (s.tookEvent e).hostProg = s.hostProg := rfl
@[simp] theorem State.tookEvent_hostData (e : Event) : (s.tookEvent e).hostData = s.hostData := rfl
@[simp] theorem State.tookEvent_sched (e : Event) : (s.tookEvent e).sched = s.sched := rfl
@[simp] theorem State.tookEvent_freeIdx (e : Event) : (s.tookEvent e).freeIdx = s.freeIdx := rfl
@[simp] theorem State.tookEvent_params (e : Event) : (s.tookEvent e).params = s.params := rfl

/-! `stageWrite` -/

@[simp] theorem State.stageWrite_phase (k : Nat) (v : Word) : (s.stageWrite k v).phase = s.phase := rfl
@[simp] theorem State.stageWrite_istep (k : Nat) (v : Word) : (s.stageWrite k v).istep = s.istep := rfl
@[simp] theorem State.stageWrite_probeA (k : Nat) (v : Word) : (s.stageWrite k v).probeA = s.probeA := rfl
@[simp] theorem State.stageWrite_tries (k : Nat) (v : Word) : (s.stageWrite k v).tries = s.tries := rfl
@[simp] theorem State.stageWrite_bstep (k : Nat) (v : Word) : (s.stageWrite k v).bstep = s.bstep := rfl
@[simp] theorem State.stageWrite_w0 (k : Nat) (v : Word) : (s.stageWrite k v).w0 = s.w0 := rfl
@[simp] theorem State.stageWrite_waitAt (k : Nat) (v : Word) : (s.stageWrite k v).waitAt = s.waitAt := rfl
@[simp] theorem State.stageWrite_delayEnd (k : Nat) (v : Word) : (s.stageWrite k v).delayEnd = s.delayEnd := rfl
@[simp] theorem State.stageWrite_probeRest (k : Nat) (v : Word) : (s.stageWrite k v).probeRest = s.probeRest := rfl
@[simp] theorem State.stageWrite_txAddr (k : Nat) (v : Word) : (s.stageWrite k v).txAddr = s.txAddr := rfl
@[simp] theorem State.stageWrite_txBytes (k : Nat) (v : Word) : (s.stageWrite k v).txBytes = s.txBytes := rfl
@[simp] theorem State.stageWrite_txSpeed (k : Nat) (v : Word) : (s.stageWrite k v).txSpeed = s.txSpeed := rfl
@[simp] theorem State.stageWrite_text (k : Nat) (v : Word) : (s.stageWrite k v).text = s.text := rfl
@[simp] theorem State.stageWrite_bl (k : Nat) (v : Word) : (s.stageWrite k v).bl = s.bl := rfl
@[simp] theorem State.stageWrite_txbuf (k : Nat) (v : Word) : (s.stageWrite k v).txbuf = s.txbuf := rfl
@[simp] theorem State.stageWrite_refreshCount (k : Nat) (v : Word) : (s.stageWrite k v).refreshCount = s.refreshCount := rfl
@[simp] theorem State.stageWrite_devAddr (k : Nat) (v : Word) : (s.stageWrite k v).devAddr = s.devAddr := rfl
@[simp] theorem State.stageWrite_oledCyc (k : Nat) (v : Word) : (s.stageWrite k v).oledCyc = s.oledCyc := rfl
@[simp] theorem State.stageWrite_wdtArmed (k : Nat) (v : Word) : (s.stageWrite k v).wdtArmed = s.wdtArmed := rfl
@[simp] theorem State.stageWrite_wdtCnt (k : Nat) (v : Word) : (s.stageWrite k v).wdtCnt = s.wdtCnt := rfl
@[simp] theorem State.stageWrite_toPend (k : Nat) (v : Word) : (s.stageWrite k v).toPend = s.toPend := rfl
@[simp] theorem State.stageWrite_chEn (k : Nat) (v : Word) : (s.stageWrite k v).chEn = s.chEn := rfl
@[simp] theorem State.stageWrite_chPtr (k : Nat) (v : Word) : (s.stageWrite k v).chPtr = s.chPtr := rfl
@[simp] theorem State.stageWrite_chCnt (k : Nat) (v : Word) : (s.stageWrite k v).chCnt = s.chCnt := rfl
@[simp] theorem State.stageWrite_tcPend (k : Nat) (v : Word) : (s.stageWrite k v).tcPend = s.tcPend := rfl
@[simp] theorem State.stageWrite_injPend (k : Nat) (v : Word) : (s.stageWrite k v).injPend = s.injPend := rfl
@[simp] theorem State.stageWrite_evtEn (k : Nat) (v : Word) : (s.stageWrite k v).evtEn = s.evtEn := rfl
@[simp] theorem State.stageWrite_errEn (k : Nat) (v : Word) : (s.stageWrite k v).errEn = s.errEn := rfl
@[simp] theorem State.stageWrite_syncBusy (k : Nat) (v : Word) : (s.stageWrite k v).syncBusy = s.syncBusy := rfl
@[simp] theorem State.stageWrite_syncSeen (k : Nat) (v : Word) : (s.stageWrite k v).syncSeen = s.syncSeen := rfl
@[simp] theorem State.stageWrite_initFailed (k : Nat) (v : Word) : (s.stageWrite k v).initFailed = s.initFailed := rfl
@[simp] theorem State.stageWrite_failCause (k : Nat) (v : Word) : (s.stageWrite k v).failCause = s.failCause := rfl
@[simp] theorem State.stageWrite_busDead (k : Nat) (v : Word) : (s.stageWrite k v).busDead = s.busDead := rfl
@[simp] theorem State.stageWrite_wedgeSeen (k : Nat) (v : Word) : (s.stageWrite k v).wedgeSeen = s.wedgeSeen := rfl
@[simp] theorem State.stageWrite_wedgeStuck (k : Nat) (v : Word) : (s.stageWrite k v).wedgeStuck = s.wedgeStuck := rfl
@[simp] theorem State.stageWrite_cmdErr (k : Nat) (v : Word) : (s.stageWrite k v).cmdErr = s.cmdErr := rfl
@[simp] theorem State.stageWrite_sclMode (k : Nat) (v : Word) : (s.stageWrite k v).sclMode = s.sclMode := rfl
@[simp] theorem State.stageWrite_sclLvl (k : Nat) (v : Word) : (s.stageWrite k v).sclLvl = s.sclLvl := rfl
@[simp] theorem State.stageWrite_sdaMode (k : Nat) (v : Word) : (s.stageWrite k v).sdaMode = s.sdaMode := rfl
@[simp] theorem State.stageWrite_sdaLvl (k : Nat) (v : Word) : (s.stageWrite k v).sdaLvl = s.sdaLvl := rfl
@[simp] theorem State.stageWrite_faultCount (k : Nat) (v : Word) : (s.stageWrite k v).faultCount = s.faultCount := rfl
@[simp] theorem State.stageWrite_lastErrRaw (k : Nat) (v : Word) : (s.stageWrite k v).lastErrRaw = s.lastErrRaw := rfl
@[simp] theorem State.stageWrite_lastErrCause (k : Nat) (v : Word) : (s.stageWrite k v).lastErrCause = s.lastErrCause := rfl
@[simp] theorem State.stageWrite_lastEvt (k : Nat) (v : Word) : (s.stageWrite k v).lastEvt = s.lastEvt := rfl
@[simp] theorem State.stageWrite_link (k : Nat) (v : Word) : (s.stageWrite k v).link = s.link := rfl
@[simp] theorem State.stageWrite_wire (k : Nat) (v : Word) : (s.stageWrite k v).wire = s.wire := rfl
@[simp] theorem State.stageWrite_now (k : Nat) (v : Word) : (s.stageWrite k v).now = s.now := rfl
@[simp] theorem State.stageWrite_busScl (k : Nat) (v : Word) : (s.stageWrite k v).busScl = s.busScl := rfl
@[simp] theorem State.stageWrite_busSda (k : Nat) (v : Word) : (s.stageWrite k v).busSda = s.busSda := rfl
@[simp] theorem State.stageWrite_hostProg (k : Nat) (v : Word) : (s.stageWrite k v).hostProg = s.hostProg := rfl
@[simp] theorem State.stageWrite_hostData (k : Nat) (v : Word) : (s.stageWrite k v).hostData = s.hostData := rfl
@[simp] theorem State.stageWrite_sched (k : Nat) (v : Word) : (s.stageWrite k v).sched = s.sched := rfl
@[simp] theorem State.stageWrite_freeIdx (k : Nat) (v : Word) : (s.stageWrite k v).freeIdx = s.freeIdx := rfl
@[simp] theorem State.stageWrite_params (k : Nat) (v : Word) : (s.stageWrite k v).params = s.params := rfl

/-! `hostDone` -/

@[simp] theorem State.hostDone_phase : (s.hostDone).phase = s.phase := rfl
@[simp] theorem State.hostDone_istep : (s.hostDone).istep = s.istep := rfl
@[simp] theorem State.hostDone_probeA : (s.hostDone).probeA = s.probeA := rfl
@[simp] theorem State.hostDone_tries : (s.hostDone).tries = s.tries := rfl
@[simp] theorem State.hostDone_bstep : (s.hostDone).bstep = s.bstep := rfl
@[simp] theorem State.hostDone_w0 : (s.hostDone).w0 = s.w0 := rfl
@[simp] theorem State.hostDone_waitAt : (s.hostDone).waitAt = s.waitAt := rfl
@[simp] theorem State.hostDone_delayEnd : (s.hostDone).delayEnd = s.delayEnd := rfl
@[simp] theorem State.hostDone_probeRest : (s.hostDone).probeRest = s.probeRest := rfl
@[simp] theorem State.hostDone_txAddr : (s.hostDone).txAddr = s.txAddr := rfl
@[simp] theorem State.hostDone_txBytes : (s.hostDone).txBytes = s.txBytes := rfl
@[simp] theorem State.hostDone_txSpeed : (s.hostDone).txSpeed = s.txSpeed := rfl
@[simp] theorem State.hostDone_text : (s.hostDone).text = s.text := rfl
@[simp] theorem State.hostDone_bl : (s.hostDone).bl = s.bl := rfl
@[simp] theorem State.hostDone_txbuf : (s.hostDone).txbuf = s.txbuf := rfl
@[simp] theorem State.hostDone_stage : (s.hostDone).stage = s.stage := rfl
@[simp] theorem State.hostDone_refreshCount : (s.hostDone).refreshCount = s.refreshCount := rfl
@[simp] theorem State.hostDone_devAddr : (s.hostDone).devAddr = s.devAddr := rfl
@[simp] theorem State.hostDone_oledCyc : (s.hostDone).oledCyc = s.oledCyc := rfl
@[simp] theorem State.hostDone_wdtArmed : (s.hostDone).wdtArmed = s.wdtArmed := rfl
@[simp] theorem State.hostDone_wdtCnt : (s.hostDone).wdtCnt = s.wdtCnt := rfl
@[simp] theorem State.hostDone_toPend : (s.hostDone).toPend = s.toPend := rfl
@[simp] theorem State.hostDone_chEn : (s.hostDone).chEn = s.chEn := rfl
@[simp] theorem State.hostDone_chPtr : (s.hostDone).chPtr = s.chPtr := rfl
@[simp] theorem State.hostDone_chCnt : (s.hostDone).chCnt = s.chCnt := rfl
@[simp] theorem State.hostDone_tcPend : (s.hostDone).tcPend = s.tcPend := rfl
@[simp] theorem State.hostDone_injPend : (s.hostDone).injPend = s.injPend := rfl
@[simp] theorem State.hostDone_evtEn : (s.hostDone).evtEn = s.evtEn := rfl
@[simp] theorem State.hostDone_errEn : (s.hostDone).errEn = s.errEn := rfl
@[simp] theorem State.hostDone_syncBusy : (s.hostDone).syncBusy = s.syncBusy := rfl
@[simp] theorem State.hostDone_syncSeen : (s.hostDone).syncSeen = s.syncSeen := rfl
@[simp] theorem State.hostDone_initFailed : (s.hostDone).initFailed = s.initFailed := rfl
@[simp] theorem State.hostDone_failCause : (s.hostDone).failCause = s.failCause := rfl
@[simp] theorem State.hostDone_busDead : (s.hostDone).busDead = s.busDead := rfl
@[simp] theorem State.hostDone_wedgeSeen : (s.hostDone).wedgeSeen = s.wedgeSeen := rfl
@[simp] theorem State.hostDone_wedgeStuck : (s.hostDone).wedgeStuck = s.wedgeStuck := rfl
@[simp] theorem State.hostDone_cmdErr : (s.hostDone).cmdErr = s.cmdErr := rfl
@[simp] theorem State.hostDone_sclMode : (s.hostDone).sclMode = s.sclMode := rfl
@[simp] theorem State.hostDone_sclLvl : (s.hostDone).sclLvl = s.sclLvl := rfl
@[simp] theorem State.hostDone_sdaMode : (s.hostDone).sdaMode = s.sdaMode := rfl
@[simp] theorem State.hostDone_sdaLvl : (s.hostDone).sdaLvl = s.sdaLvl := rfl
@[simp] theorem State.hostDone_faultCount : (s.hostDone).faultCount = s.faultCount := rfl
@[simp] theorem State.hostDone_lastErrRaw : (s.hostDone).lastErrRaw = s.lastErrRaw := rfl
@[simp] theorem State.hostDone_lastErrCause : (s.hostDone).lastErrCause = s.lastErrCause := rfl
@[simp] theorem State.hostDone_lastEvt : (s.hostDone).lastEvt = s.lastEvt := rfl
@[simp] theorem State.hostDone_link : (s.hostDone).link = s.link := rfl
@[simp] theorem State.hostDone_wire : (s.hostDone).wire = s.wire := rfl
@[simp] theorem State.hostDone_now : (s.hostDone).now = s.now := rfl
@[simp] theorem State.hostDone_busScl : (s.hostDone).busScl = s.busScl := rfl
@[simp] theorem State.hostDone_busSda : (s.hostDone).busSda = s.busSda := rfl
@[simp] theorem State.hostDone_hostProg : (s.hostDone).hostProg = s.hostProg.tail := rfl
@[simp] theorem State.hostDone_hostData : (s.hostDone).hostData = s.hostData := rfl
@[simp] theorem State.hostDone_sched : (s.hostDone).sched = s.sched := rfl
@[simp] theorem State.hostDone_freeIdx : (s.hostDone).freeIdx = s.freeIdx := rfl
@[simp] theorem State.hostDone_params : (s.hostDone).params = s.params := rfl

/-! `hostGot` -/

@[simp] theorem State.hostGot_phase (v : Word) : (s.hostGot v).phase = s.phase := rfl
@[simp] theorem State.hostGot_istep (v : Word) : (s.hostGot v).istep = s.istep := rfl
@[simp] theorem State.hostGot_probeA (v : Word) : (s.hostGot v).probeA = s.probeA := rfl
@[simp] theorem State.hostGot_tries (v : Word) : (s.hostGot v).tries = s.tries := rfl
@[simp] theorem State.hostGot_bstep (v : Word) : (s.hostGot v).bstep = s.bstep := rfl
@[simp] theorem State.hostGot_w0 (v : Word) : (s.hostGot v).w0 = s.w0 := rfl
@[simp] theorem State.hostGot_waitAt (v : Word) : (s.hostGot v).waitAt = s.waitAt := rfl
@[simp] theorem State.hostGot_delayEnd (v : Word) : (s.hostGot v).delayEnd = s.delayEnd := rfl
@[simp] theorem State.hostGot_probeRest (v : Word) : (s.hostGot v).probeRest = s.probeRest := rfl
@[simp] theorem State.hostGot_txAddr (v : Word) : (s.hostGot v).txAddr = s.txAddr := rfl
@[simp] theorem State.hostGot_txBytes (v : Word) : (s.hostGot v).txBytes = s.txBytes := rfl
@[simp] theorem State.hostGot_txSpeed (v : Word) : (s.hostGot v).txSpeed = s.txSpeed := rfl
@[simp] theorem State.hostGot_text (v : Word) : (s.hostGot v).text = s.text := rfl
@[simp] theorem State.hostGot_bl (v : Word) : (s.hostGot v).bl = s.bl := rfl
@[simp] theorem State.hostGot_txbuf (v : Word) : (s.hostGot v).txbuf = s.txbuf := rfl
@[simp] theorem State.hostGot_stage (v : Word) : (s.hostGot v).stage = s.stage := rfl
@[simp] theorem State.hostGot_refreshCount (v : Word) : (s.hostGot v).refreshCount = s.refreshCount := rfl
@[simp] theorem State.hostGot_devAddr (v : Word) : (s.hostGot v).devAddr = s.devAddr := rfl
@[simp] theorem State.hostGot_oledCyc (v : Word) : (s.hostGot v).oledCyc = s.oledCyc := rfl
@[simp] theorem State.hostGot_wdtArmed (v : Word) : (s.hostGot v).wdtArmed = s.wdtArmed := rfl
@[simp] theorem State.hostGot_wdtCnt (v : Word) : (s.hostGot v).wdtCnt = s.wdtCnt := rfl
@[simp] theorem State.hostGot_toPend (v : Word) : (s.hostGot v).toPend = s.toPend := rfl
@[simp] theorem State.hostGot_chEn (v : Word) : (s.hostGot v).chEn = s.chEn := rfl
@[simp] theorem State.hostGot_chPtr (v : Word) : (s.hostGot v).chPtr = s.chPtr := rfl
@[simp] theorem State.hostGot_chCnt (v : Word) : (s.hostGot v).chCnt = s.chCnt := rfl
@[simp] theorem State.hostGot_tcPend (v : Word) : (s.hostGot v).tcPend = s.tcPend := rfl
@[simp] theorem State.hostGot_injPend (v : Word) : (s.hostGot v).injPend = s.injPend := rfl
@[simp] theorem State.hostGot_evtEn (v : Word) : (s.hostGot v).evtEn = s.evtEn := rfl
@[simp] theorem State.hostGot_errEn (v : Word) : (s.hostGot v).errEn = s.errEn := rfl
@[simp] theorem State.hostGot_syncBusy (v : Word) : (s.hostGot v).syncBusy = s.syncBusy := rfl
@[simp] theorem State.hostGot_syncSeen (v : Word) : (s.hostGot v).syncSeen = s.syncSeen := rfl
@[simp] theorem State.hostGot_initFailed (v : Word) : (s.hostGot v).initFailed = s.initFailed := rfl
@[simp] theorem State.hostGot_failCause (v : Word) : (s.hostGot v).failCause = s.failCause := rfl
@[simp] theorem State.hostGot_busDead (v : Word) : (s.hostGot v).busDead = s.busDead := rfl
@[simp] theorem State.hostGot_wedgeSeen (v : Word) : (s.hostGot v).wedgeSeen = s.wedgeSeen := rfl
@[simp] theorem State.hostGot_wedgeStuck (v : Word) : (s.hostGot v).wedgeStuck = s.wedgeStuck := rfl
@[simp] theorem State.hostGot_cmdErr (v : Word) : (s.hostGot v).cmdErr = s.cmdErr := rfl
@[simp] theorem State.hostGot_sclMode (v : Word) : (s.hostGot v).sclMode = s.sclMode := rfl
@[simp] theorem State.hostGot_sclLvl (v : Word) : (s.hostGot v).sclLvl = s.sclLvl := rfl
@[simp] theorem State.hostGot_sdaMode (v : Word) : (s.hostGot v).sdaMode = s.sdaMode := rfl
@[simp] theorem State.hostGot_sdaLvl (v : Word) : (s.hostGot v).sdaLvl = s.sdaLvl := rfl
@[simp] theorem State.hostGot_faultCount (v : Word) : (s.hostGot v).faultCount = s.faultCount := rfl
@[simp] theorem State.hostGot_lastErrRaw (v : Word) : (s.hostGot v).lastErrRaw = s.lastErrRaw := rfl
@[simp] theorem State.hostGot_lastErrCause (v : Word) : (s.hostGot v).lastErrCause = s.lastErrCause := rfl
@[simp] theorem State.hostGot_lastEvt (v : Word) : (s.hostGot v).lastEvt = s.lastEvt := rfl
@[simp] theorem State.hostGot_link (v : Word) : (s.hostGot v).link = s.link := rfl
@[simp] theorem State.hostGot_wire (v : Word) : (s.hostGot v).wire = s.wire := rfl
@[simp] theorem State.hostGot_now (v : Word) : (s.hostGot v).now = s.now := rfl
@[simp] theorem State.hostGot_busScl (v : Word) : (s.hostGot v).busScl = s.busScl := rfl
@[simp] theorem State.hostGot_busSda (v : Word) : (s.hostGot v).busSda = s.busSda := rfl
@[simp] theorem State.hostGot_hostProg (v : Word) : (s.hostGot v).hostProg = s.hostProg := rfl
@[simp] theorem State.hostGot_hostData (v : Word) : (s.hostGot v).hostData = v := rfl
@[simp] theorem State.hostGot_sched (v : Word) : (s.hostGot v).sched = s.sched := rfl
@[simp] theorem State.hostGot_freeIdx (v : Word) : (s.hostGot v).freeIdx = s.freeIdx := rfl
@[simp] theorem State.hostGot_params (v : Word) : (s.hostGot v).params = s.params := rfl

end

end Sys2Proof.Machine
end

