-- ==== Sys2Proof/Laws/Ops.lean ====
section
/-! SUPPORT. One lemma per shared operation that says everything it does: the link commands' targets, the teardown, taking a
fault, the loop start, the bounded wait, the payload lengths. A proof cites these and does not unfold the operation. -/

namespace Sys2Proof.Machine

/-! Computed fields. -/

theorem modeOf_eq_none (p : Params) (a : BitVec 7) : modeOf p a = .none ↔ a = 0 := by
  unfold modeOf
  split
  · simp_all
  · split <;> simp_all

theorem State.mode_eq_none (s : State) : s.mode = .none ↔ s.devAddr = 0 := modeOf_eq_none _ _

theorem Phase.inLoop_running {p : Phase} (h : p.inLoop = true) : p.running = true := by
  cases p <;> simp_all [Phase.inLoop, Phase.running]

theorem Phase.transferring_inLoop {p : Phase} (h : p.transferring = true) : p.inLoop = true := by
  cases p <;> simp_all [Phase.inLoop, Phase.transferring]

/-! Payload lengths (R247). -/

theorem emit8_length (bl rs : Bool) (v : Byte) : (emit8 bl v rs).length = 6 := rfl

theorem lcdRow_length (p : Params) (bl : Bool) (m : Memory) (r : Nat) : (lcdRow p bl m r).length = 102 := by
  simp [lcdRow, emit8_length, List.length_flatMap]

theorem lcdPayload_length (p : Params) (bl : Bool) (m : Memory) : (lcdPayload p bl m).length = lcdLen := by
  simp [lcdPayload, lcdRow_length, lcdLen]

theorem oledRowPayload_length (p : Params) (m : Memory) (r : Nat) : (oledRowPayload p m r).length = oledRowLen := by
  simp [oledRowPayload, oledRowLen]

theorem preamblePayload_length (bl : Bool) : (preamblePayload bl).length = preambleLen := rfl

/-! Shared operations, each as the one record it leaves. -/

theorem State.teardown_eq (s : State) : s.teardown =
    { s with
      wire := s.wire ++ abortTrace s.link.opn
      link := s.link.cleared
      chEn := false, chPtr := 0, chCnt := 0, tcPend := false
      wdtArmed := false, wdtCnt := 0, toPend := false
      evtEn := false, errEn := false, injPend := false
      phase := .off } := by
  cases s; rfl

theorem State.takeFault_eq (s : State) (c : ErrCause) : s.takeFault c =
    { s with
      lastErrRaw := s.link.err, lastErrCause := c, faultCount := s.faultCount + 1
      wire := s.wire ++ abortTrace s.link.opn
      link := s.link.cleared
      chEn := false, chPtr := 0, chCnt := 0, tcPend := false
      wdtArmed := false, wdtCnt := 0, toPend := false
      evtEn := false, errEn := false, injPend := false
      phase := .recover, waitAt := .recoverEntry } := by
  cases s; rfl

theorem State.failInit_eq (s : State) (c : FailCause) : s.failInit c =
    { s with
      wire := s.wire ++ abortTrace s.link.opn
      link := s.link.cleared
      sclMode := .puIn, sdaMode := .puIn, initFailed := true, failCause := c
      phase := .off, istep := .fail, waitAt := .idle } := by
  cases s; rfl

theorem State.configureLink_eq (s : State) : s.configureLink =
    { s with
      sclMode := .alt, sdaMode := .alt, istep := .config
      wire := s.wire ++ abortTrace s.link.opn
      link := { Link.reset with en := true } } := by
  cases s; rfl

theorem State.loopStart_oled (s : State) (h : s.mode = .oled) : s.loopStart =
    { s with
      txbuf := Memory.fill txbufBg s.txbuf (preamblePayload s.bl)
      oledCyc := .row0
      link := { s.link with startReq := true }
      chPtr := 0, chCnt := 19, tcPend := false, chEn := true
      wdtCnt := 0, toPend := false, wdtArmed := true
      evtEn := true, errEn := true
      phase := .waitSb, istep := .loopStart, waitAt := .idle } := by
  simp only [State.loopStart, State.loopRender, State.loopLen, if_pos h]
  cases s; rfl

theorem State.loopStart_lcd (s : State) (h : s.mode ≠ .oled) : s.loopStart =
    { s with
      txbuf := Memory.fill txbufBg s.txbuf (lcdPayload s.params s.bl s.text)
      refreshCount := s.refreshCount + 1
      syncSeen := seenAfterTick s.syncBusy s.syncSeen
      syncBusy := busyAfterTick s.syncBusy s.syncSeen
      link := { s.link with startReq := true }
      chPtr := 0, chCnt := 204, tcPend := false, chEn := true
      wdtCnt := 0, toPend := false, wdtArmed := true
      evtEn := true, errEn := true
      phase := .waitSb, istep := .loopStart, waitAt := .idle } := by
  simp only [State.loopStart, State.loopRender, State.loopLen, if_neg h]
  cases s; rfl

theorem State.abortTx_eq (s : State) : s.abortTx =
    { s with
      wire := s.wire ++ abortTrace s.link.opn
      link := { Link.reset with speed := s.txSpeed, en := true } } := by
  cases s; rfl

theorem State.errAbort_eq (s : State) : s.lClrErr.abortTx = s.abortTx := by
  cases s; rfl

theorem State.lcdSnapshot_eq (s : State) : s.lcdSnapshot =
    { s with
      txbuf := Memory.fill txbufBg s.txbuf (lcdPayload s.params s.bl s.text)
      refreshCount := s.refreshCount + 1
      syncSeen := seenAfterTick s.syncBusy s.syncSeen
      syncBusy := busyAfterTick s.syncBusy s.syncSeen } := by
  cases s; rfl

theorem State.onStopDone_eq (s : State) : s.onStopDone =
    { s with
      refreshCount := s.refreshCount + 1
      syncSeen := seenAfterTick s.syncBusy s.syncSeen
      syncBusy := busyAfterTick s.syncBusy s.syncSeen
      oledCyc := .row0
      txbuf := Memory.fill txbufBg s.txbuf (preamblePayload s.bl)
      link := { s.link with startReq := true }
      evtEn := true, phase := .waitSb
      chPtr := 0, chCnt := 19, tcPend := false, chEn := true
      wdtCnt := 0, toPend := false, wdtArmed := true } := by
  cases s; rfl

/-- A handler leaves LAST_EVT as it finds it. -/
theorem State.handle_lastEvt (s : State) (e : Event) : (s.handle e).lastEvt = s.lastEvt := by
  cases s
  cases e <;> simp only [State.handle]
  case tc => unfold State.onTc; split <;> rfl
  all_goals rfl

/-! The bounded wait (R189). -/

theorem State.waitCheck_ok (s : State) (c : Bool) : s.waitCheck c = some .ok ↔ c = true := by
  unfold State.waitCheck
  cases c
  · simp only [Bool.false_eq_true, if_false, iff_false]
    split
    · simp
    · split <;> simp
  · simp

theorem State.waitCheck_err (s : State) (c : Bool) : s.waitCheck c = some .err ↔ c = false ∧ s.link.err ≠ 0 := by
  unfold State.waitCheck
  cases c
  · simp only [Bool.false_eq_true, if_false, true_and]
    split
    · simp_all
    · split <;> simp_all
  · simp

theorem State.waitCheck_timeout (s : State) (c : Bool) :
    s.waitCheck c = some .timeout ↔ c = false ∧ s.link.err = 0 ∧ s.params.tWait < s.now - s.w0 := by
  unfold State.waitCheck
  cases c
  · simp only [Bool.false_eq_true, if_false, true_and]
    split
    · simp_all
    · split <;> simp_all
  · simp

/-! SEQ's choice of an event (R326, R327). -/

theorem State.nextEvent_ready {s : State} {e : Event} (h : s.nextEvent = some e) : s.eventReady e = true :=
  List.find?_some h

theorem State.nextEvent_none {s : State} (h : s.nextEvent = none) (e : Event) : s.eventReady e = false := by
  have := List.find?_eq_none.mp h e (by cases e <;> decide)
  simpa using this

theorem State.seqLoop_some {s : State} {e : Event} (h : s.nextEvent = some e) :
    s.seqLoop = (s.tookEvent e).handle e := by
  simp only [State.seqLoop, h]

theorem State.seqLoop_none {s : State} (h : s.nextEvent = none) : s.seqLoop = s := by
  simp only [State.seqLoop, h]

/-! SYNC's count (R147). -/

theorem syncBelow_tick (b : Bool) (v : BitVec 2) (h : b = true → v.toNat < 2) :
    busyAfterTick b v = true → (seenAfterTick b v).toNat < 2 := by
  revert h; revert v; revert b; decide

/-! WRITE's two loops (R142), as the bytes they leave. -/

theorem copyText_col (row : Nat) (bs : List Byte) (w : WriteCursor) (hc : w.col ≤ 16) :
    (copyText row bs w).col = w.col + min bs.length (16 - w.col) := by
  induction bs generalizing w with
  | nil => simp [copyText]
  | cons b bs ih =>
    simp only [copyText]
    split
    · rw [ih _ (by simp; omega)]
      simp only [List.length_cons]
      omega
    · simp only [List.length_cons]
      omega

theorem copyText_minw (row : Nat) (bs : List Byte) (w : WriteCursor) :
    (copyText row bs w).minw = w.minw - min bs.length (16 - w.col) := by
  induction bs generalizing w with
  | nil => simp [copyText]
  | cons b bs ih =>
    simp only [copyText]
    split
    · rw [ih]
      simp only [List.length_cons]
      omega
    · simp only [List.length_cons]
      omega

theorem copyText_beyond (row : Nat) (bs : List Byte) (w : WriteCursor) (hc : 16 ≤ w.col) : copyText row bs w = w := by
  cases bs with
  | nil => rfl
  | cons b bs => simp [copyText, Nat.not_lt.mpr hc]

end Sys2Proof.Machine
end

