-- ==== Sys2Proof/Laws/Discovery.lean ====
section
/-! SUPPORT. SEQ's procedures, each piece said once: which stretch runs from each waiting point, what a step of the bring-up
list leaves, and the state from which each entry runs the list's first step. -/

namespace Sys2Proof.Machine

/-! The stretch that runs from each waiting point (R180, R330): at once, or when its delay is over (R12). -/

theorem State.seqTurn_proc {s : State} (h : s.phase = .init ∨ s.phase = .recover) : s.seqTurn = s.seqProc := by
  unfold State.seqTurn
  rcases h with h | h <;> rw [h]

theorem State.delayOver_iff (s : State) : s.delayOver = true ↔ s.delayEnd ≤ s.now := decide_eq_true_iff

theorem State.seqProc_initEntry {s : State} (h : s.waitAt = .initEntry) :
    s.seqProc = s.initEntry.wedgeStart := by
  unfold State.seqProc
  rw [h]

theorem State.seqProc_wedgeSettle {s : State} (h : s.waitAt = .wedgeSettle) :
    s.seqProc = if s.delayOver then s.wedgeSample else s := by
  unfold State.seqProc
  rw [h]

theorem State.seqProc_pulseDataLow {s : State} (h : s.waitAt = .pulseDataLow) :
    s.seqProc = if s.delayOver then s.pulseClockLow else s := by
  unfold State.seqProc
  rw [h]

theorem State.seqProc_pulseClockLow {s : State} (h : s.waitAt = .pulseClockLow) :
    s.seqProc = if s.delayOver then s.pulseClockHigh else s := by
  unfold State.seqProc
  rw [h]

theorem State.seqProc_pulseClockHigh {s : State} (h : s.waitAt = .pulseClockHigh) :
    s.seqProc = if s.delayOver then s.pulseDataHigh else s := by
  unfold State.seqProc
  rw [h]

theorem State.seqProc_pulseDataHigh {s : State} (h : s.waitAt = .pulseDataHigh) :
    s.seqProc = if s.delayOver then s.wedgeRecheck else s := by
  unfold State.seqProc
  rw [h]

theorem State.seqProc_floatSettle {s : State} (h : s.waitAt = .floatSettle) :
    s.seqProc = if s.delayOver then s.floatSample else s := by
  unfold State.seqProc
  rw [h]

theorem State.seqProc_recoverEntry {s : State} (h : s.waitAt = .recoverEntry) :
    s.seqProc = (s.lConfig (if s.mode = .lcd then .std else .fast)).bringStart := by
  unfold State.seqProc
  rw [h]

theorem State.seqProc_bringDelay {s : State} (h : s.waitAt = .bringDelay) :
    s.seqProc = if s.delayOver then s.bringNext else s := by
  unfold State.seqProc
  rw [h]

theorem State.seqProc_txSb {s : State} (h : s.waitAt = .txSb) :
    s.seqProc = s.txWait s.link.sb State.txGotSb := by
  unfold State.seqProc
  rw [h]

theorem State.seqProc_txAddr {s : State} (h : s.waitAt = .txAddr) :
    s.seqProc = s.txWait s.link.addr State.txGotAddr := by
  unfold State.seqProc
  rw [h]

theorem State.seqProc_txTxe {s : State} (h : s.waitAt = .txTxe) :
    s.seqProc = s.txWait s.link.txe State.txGotTxe := by
  unfold State.seqProc
  rw [h]

theorem State.seqProc_txBtf {s : State} (h : s.waitAt = .txBtf) :
    s.seqProc = s.txWait s.link.btf State.txSendStop := by
  unfold State.seqProc
  rw [h]

theorem State.seqProc_txStop {s : State} (h : s.waitAt = .txStop) :
    s.seqProc = s.txWait (!s.link.stopBusy) (fun t => t.txDone .ok) := by
  unfold State.seqProc
  rw [h]

/-- A wait whose condition holds goes on, whatever else the link shows (R189). -/
theorem State.txWait_ok {s : State} {c : Bool} (h : c = true) (go : State → State) : s.txWait c go = go s := by
  unfold State.txWait State.waitCheck
  rw [if_pos h]

/-! The bring-up and the ways into it. -/

/-- Running the step BSTEP leaves what the list says (R198). -/
theorem State.bringRun_bringsUp (u : State) : u.BringsUp u.bringRun := by
  unfold State.BringsUp State.bringRun State.bringSteps
  split
  · rename_i h
    simp only [h]
    cases u; rfl
  · rename_i h
    simp only [h]
    cases u; rfl
  · rename_i h
    simp only [h]

/-- The entry into the bring-up (R180, R196). -/
theorem State.bringEnter_eq (s : State) : s.bringEnter = State.bringRun
    { s with
      istep := .bringUp, bstep := 0
      link := { s.link with
        speed := if s.mode = .oled then .fast else s.link.speed
        en := s.link.en || decide (s.mode = .oled) } } := by
  unfold State.bringEnter
  by_cases h : s.mode = .oled
  · rw [if_pos h, if_pos h, decide_eq_true h, Bool.or_true]
    rfl
  · rw [if_neg h, if_neg h, decide_eq_false h, Bool.or_false]
    rfl

/-- After the wedge check of a first discovery (R186). -/
theorem State.afterWedge_first (s : State) (h : s.devAddr = 0) : s.afterWedge =
    { s with
      sclMode := .pdIn, sdaMode := .pdIn, istep := .float
      delayEnd := s.now + s.params.tSettle, waitAt := .floatSettle } := by
  unfold State.afterWedge
  rw [if_pos h]
  rfl

/-- After the wedge check of a re-run: the link reset and configured, then the bring-up (R188, R196, R200). -/
theorem State.afterWedge_rerun (s : State) (h : s.devAddr ≠ 0) : s.afterWedge = State.bringRun
    { s with
      sclMode := .alt, sdaMode := .alt
      wire := s.wire ++ abortTrace s.link.opn
      link := { Link.reset with speed := if s.mode = .oled then .fast else .std, en := true }
      istep := .bringUp, bstep := 0 } := by
  unfold State.afterWedge
  rw [if_neg h, State.bringEnter_eq, State.configureLink_eq]
  rfl

/-- Classification (R195) enters the bring-up of the mode the address selects. -/
theorem State.classify_eq (s : State) (h : s.probeA ≠ 0) : s.classify = State.bringRun
    { s with
      devAddr := s.probeA, istep := .bringUp, bstep := 0
      link := { s.link with
        speed := if s.probeA = s.params.oledAddr then .fast else s.link.speed
        en := s.link.en || decide (s.probeA = s.params.oledAddr) } } := by
  have hm : ({ s with devAddr := s.probeA, istep := .classify } : State).mode = .oled ↔ s.probeA = s.params.oledAddr := by
    show modeOf s.params s.probeA = .oled ↔ _
    unfold modeOf
    rw [if_neg h]
    split <;> simp_all
  unfold State.classify
  rw [State.bringEnter_eq]
  simp only [hm]

end Sys2Proof.Machine
end

