-- ==== Sys2Proof/Laws/PerInstr.lean ====
section
/-! SUPPORT. A statement about every command as syntax: its encoded word fits its row of the opcode table
(spec/30_encoding.md R102 to R107), one lemma per constructor. -/

namespace Sys2Proof

/-- The mask of a command's row. -/
def Laws.EncodeFits.mask (i : Instr) : Word :=
  match i with
  | .init => 0xFFFFFFFF
  | .write _ _ _ _ => 0xFEE000E0
  | .clear => 0xFFFFFFFF
  | .backlight _ => 0xFFFFFFFE
  | .sync => 0xFFFFFFFF
  | .faultInject => 0xFFFFFFFF

/-- The match of a command's row. -/
def Laws.EncodeFits.pat (i : Instr) : Word :=
  match i with
  | .init => 0x10000000
  | .write _ _ _ _ => 0x20000000
  | .clear => 0x30000000
  | .backlight _ => 0x40000000
  | .sync => 0x50000000
  | .faultInject => 0x60000000

/-- The encoded word fits its row: masked, it is the row's match. -/
def Laws.EncodeFits.Statement (i : Instr) : Prop :=
  encode i &&& Laws.EncodeFits.mask i = Laws.EncodeFits.pat i

theorem Laws.EncodeFits.init : Laws.EncodeFits.Statement .init := by
  unfold Laws.EncodeFits.Statement; decide

theorem Laws.EncodeFits.row_masked : ∀ row : BitVec 1, (row.setWidth 32 <<< 24) &&& (0xFEE000E0 : Word) = 0 := by decide
theorem Laws.EncodeFits.col_masked : ∀ col : BitVec 5, (col.setWidth 32 <<< 16) &&& (0xFEE000E0 : Word) = 0 := by decide
theorem Laws.EncodeFits.minw_masked : ∀ minw : BitVec 8, (minw.setWidth 32 <<< 8) &&& (0xFEE000E0 : Word) = 0 := by
  decide
theorem Laws.EncodeFits.len_masked : ∀ len : BitVec 5, len.setWidth 32 &&& (0xFEE000E0 : Word) = 0 := by decide

theorem Laws.EncodeFits.write (row : BitVec 1) (col : BitVec 5) (minw : BitVec 8) (len : BitVec 5) :
    Laws.EncodeFits.Statement (.write row col minw len) := by
  show (0x20000000 ||| (row.setWidth 32 <<< 24) ||| (col.setWidth 32 <<< 16) ||| (minw.setWidth 32 <<< 8)
    ||| len.setWidth 32) &&& (0xFEE000E0 : Word) = 0x20000000
  simp only [BitVec.and_comm _ (0xFEE000E0 : Word), BitVec.and_or_distrib_left]
  simp only [BitVec.and_comm (0xFEE000E0 : Word), Laws.EncodeFits.row_masked, Laws.EncodeFits.col_masked,
    Laws.EncodeFits.minw_masked, Laws.EncodeFits.len_masked]
  decide

theorem Laws.EncodeFits.clear : Laws.EncodeFits.Statement .clear := by
  unfold Laws.EncodeFits.Statement; decide

theorem Laws.EncodeFits.backlight (on : BitVec 1) : Laws.EncodeFits.Statement (.backlight on) := by
  unfold Laws.EncodeFits.Statement; revert on
  decide

theorem Laws.EncodeFits.sync : Laws.EncodeFits.Statement .sync := by
  unfold Laws.EncodeFits.Statement; decide

theorem Laws.EncodeFits.faultInject : Laws.EncodeFits.Statement .faultInject := by
  unfold Laws.EncodeFits.Statement; decide

end Sys2Proof
end

