-- ==== Sys2Proof/Laws/Step.lean ====
section
/-! SUPPORT. Everything a step can do, said once: the turn is taken, and one agent's turn follows. -/

namespace Sys2Proof.Machine

/-- Taking a turn changes the list of turns and the counter of free turns, nothing else. -/
theorem State.turnTaken_frame (s : State) :
    s.turnTaken = { s with sched := s.turnTaken.sched, freeIdx := s.turnTaken.freeIdx } := by
  unfold State.turnTaken
  split <;> rfl

/-- Everything a step that answers a next state can do. -/
theorem step_next {s t : State} (h : step s = .next t) :
    (s.turn = .host ∧ hostTurn s.turnTaken = .next t) ∨
    (s.turn = .seq ∧ t = s.turnTaken.seqTurn) ∨
    (s.turn = .dma ∧ dmaTurn s.turnTaken = .next t) ∨
    (s.turn = .tick ∧ t = s.turnTaken.tickTurn) ∨
    (∃ m, s.turn = .link m ∧ t = s.turnTaken.linkTurn m) ∨
    (∃ c d, s.turn = .bus c d ∧ t = s.turnTaken.busTurn c d) ∨
    (s.turn = .powerOn ∧ t = s.turnTaken.powerOn) := by
  unfold step at h
  cases hh : s.turn <;> rw [hh] at h <;> simp only [runTurn, Host.Outcome.next.injEq] at h
  · exact .inl ⟨rfl, h⟩
  · exact .inr (.inl ⟨rfl, h.symm⟩)
  · exact .inr (.inr (.inl ⟨rfl, h⟩))
  · exact .inr (.inr (.inr (.inl ⟨rfl, h.symm⟩)))
  · exact .inr (.inr (.inr (.inr (.inl ⟨_, rfl, h.symm⟩))))
  · exact .inr (.inr (.inr (.inr (.inr (.inl ⟨_, _, rfl, h.symm⟩)))))
  · exact .inr (.inr (.inr (.inr (.inr (.inr ⟨rfl, h.symm⟩)))))

/-- A DMA turn moves one byte or leaves the state. -/
theorem dmaTurn_next {s t : State} (h : dmaTurn s = .next t) :
    (s.dmaReady = true ∧ s.chPtr.toNat < Config.txbufSize ∧ t = s.dmaMove) ∨ (s.dmaReady = false ∧ t = s) := by
  unfold dmaTurn at h
  split at h
  · split at h
    · rename_i hr hl
      injection h with h
      exact Or.inl ⟨hr, hl, h.symm⟩
    · contradiction
  · rename_i hr
    injection h with h
    exact Or.inr ⟨by simpa using hr, h.symm⟩

/-- Every command answers a next state. -/
theorem exec_next (i : Instr) (s : State) : ∃ t, exec i s = .next t := by
  cases i <;> simp only [exec, execInit, execWrite, execClear, execBacklight, execSync, execFaultInject]
  all_goals first | exact ⟨_, rfl⟩ | (split <;> exact ⟨_, rfl⟩)

/-- A word written to CMD is a command, or is rejected. -/
theorem cmdWrite_next (s : State) (w : Word) :
    (∃ i, decode w = .ok i ∧ cmdWrite s w = exec i s) ∨ ((∀ i, decode w ≠ .ok i) ∧ cmdWrite s w = .next s.rejectCmd) := by
  unfold cmdWrite
  cases h : decode w with
  | ok i => exact Or.inl ⟨i, rfl, rfl⟩
  | error e => exact Or.inr ⟨by simp, rfl⟩

/-- Which offsets hold no register (R73). -/
theorem regAt_none_iff (off : Nat) : regAt off = none ↔ off % 4 ≠ 0 ∨ 0x60 ≤ off := by
  unfold regAt
  split
  · simp_all
  · rename_i h
    refine iff_of_false ?_ h
    repeat' split
    all_goals nofun

/-- Which accesses do not decode (R73). -/
theorem accessReg_none_iff (w : AccessWidth) (off : Nat) :
    accessReg w off = none ↔ w ≠ .word ∨ off % 4 ≠ 0 ∨ 0x60 ≤ off := by
  unfold accessReg
  by_cases h : w = .word
  · rw [if_pos h, regAt_none_iff]
    exact (or_iff_right (not_not_intro h)).symm
  · rw [if_neg h]
    exact iff_of_true rfl (Or.inl h)

/-- A write that reaches a register answers a next state. -/
theorem regWrite_next (s : State) (r : HostReg) (v : Word) : ∃ t, regWrite s r v = .next t := by
  cases r
  case cmd =>
    obtain ⟨i, -, h⟩ | ⟨-, h⟩ := cmdWrite_next s v
    · obtain ⟨t, ht⟩ := exec_next i s
      exact ⟨t, h.trans ht⟩
    · exact ⟨_, h⟩
  all_goals exact ⟨_, rfl⟩

/-- The one way a host access stops: it does not decode. -/
theorem hostAccess_fault {s : State} {op : HostOp} {f : Fault} (h : hostAccess s op = .fault f) :
    f = .hostBusError ∧ HostOpOutside op := by
  cases op with
  | write w off v =>
    simp only [hostAccess] at h
    split at h
    · obtain ⟨t, ht⟩ := regWrite_next s.hostDone ‹_› v
      rw [ht] at h
      cases h
    · cases h
      exact ⟨rfl, (accessReg_none_iff w off).mp ‹_›⟩
  | read w off =>
    simp only [hostAccess] at h
    split at h
    · cases h
    · cases h
      exact ⟨rfl, (accessReg_none_iff w off).mp ‹_›⟩
  | poll off mask v =>
    simp only [hostAccess] at h
    split at h
    · split at h <;> cases h
    · cases h
      exact ⟨rfl, (regAt_none_iff off).mp (by simpa [accessReg] using ‹accessReg .word off = none›)⟩

end Sys2Proof.Machine
end

