-- ==== Sys2Proof/Machine/Assembler.lean ====
section
/-! DEFINITION. The host assembler (spec/30_encoding.md R119 to R123): a line's meaning as the register accesses it stands
for, and the reading of a line of text. -/

namespace Sys2Proof.Machine

/-- One line of a host program (R120 to R123). Operands are the numbers as written; `assemble` refuses those out of
range. -/
inductive AsmLine where
  | init
  | write (row col minw len : Nat)
  | clear
  | backlight (on : Nat)
  | sync
  | faultInject
  | stw (off value : Nat)
  | ldw (off : Nat)
  | poll (off mask value : Nat)
  | print (row col minw : Nat) (text : List Byte)
  | blon
  | bloff
  | waitInit
  | initw
  | waitSync
  | syncw
deriving DecidableEq, Repr

/-- A number as a 32-bit word; none where it does not fit. -/
def wordOf (v : Nat) : Option Word := if v < 2 ^ 32 then some (BitVec.ofNat 32 v) else none

/-- The CMD write of a command (R120). -/
def cmdOp (i : Instr) : HostOp := .write .word 0x00 (encode i)

/-- WRITE row, col, minw, len, with the assembler errors of R120. -/
def writeInstr (row col minw len : Nat) : Option Instr :=
  if row ≤ 1 ∧ col ≤ 31 ∧ minw ≤ 255 ∧ len ≤ 31 then
    some (.write (BitVec.ofNat 1 row) (BitVec.ofNat 5 col) (BitVec.ofNat 8 minw) (BitVec.ofNat 5 len))
  else none

/-- STW STAGEk for the words a text reaches, unused lanes 0 (R122). -/
def stageOps (text : List Byte) : List HostOp :=
  (List.range ((text.length + 3) / 4)).map (fun k =>
    .write .word (0x10 + 4 * k)
      (wordOfLanes (text.getD (4 * k) 0) (text.getD (4 * k + 1) 0) (text.getD (4 * k + 2) 0) (text.getD (4 * k + 3) 0)))

/-- PRINT (R122): a text longer than 16 bytes is an assembler error. -/
def printOps (row col minw : Nat) (text : List Byte) : Option (List HostOp) :=
  if text.length ≤ 16 then
    match writeInstr row col minw text.length with
    | some i => some (stageOps text ++ [cmdOp i])
    | none => none
  else none

/-- WAITINIT = POLL STATUS, 0x1, 0x0 (R123). -/
def waitInitOp : HostOp := .poll 0x04 0x1 0x0
/-- WAITSYNC = POLL STATUS, 0x8, 0x0 (R123). -/
def waitSyncOp : HostOp := .poll 0x04 0x8 0x0

/-- What a line assembles to (R120 to R123); none is an assembler error. -/
def assemble (l : AsmLine) : Option (List HostOp) :=
  match l with
  | .init => some [cmdOp .init]
  | .write row col minw len => (writeInstr row col minw len).map (fun i => [cmdOp i])
  | .clear => some [cmdOp .clear]
  | .backlight on => if on ≤ 1 then some [cmdOp (.backlight (BitVec.ofNat 1 on))] else none
  | .sync => some [cmdOp .sync]
  | .faultInject => some [cmdOp .faultInject]
  | .stw off value => (wordOf value).map (fun v => [.write .word off v])
  | .ldw off => some [.read .word off]
  | .poll off mask value =>
    match wordOf mask, wordOf value with
    | some m, some v => some [.poll off m v]
    | _, _ => none
  | .print row col minw text => printOps row col minw text
  | .blon => some [cmdOp (.backlight 1)]
  | .bloff => some [cmdOp (.backlight 0)]
  | .waitInit => some [waitInitOp]
  | .initw => some [cmdOp .init, waitInitOp]
  | .waitSync => some [waitSyncOp]
  | .syncw => some [cmdOp .sync, waitSyncOp]

/-- A program assembles line by line (R119). -/
def assembleAll : List AsmLine → Option (List HostOp)
  | [] => some []
  | l :: ls =>
    match assemble l, assembleAll ls with
    | some a, some b => some (a ++ b)
    | _, _ => none

/-! The text of a line (R119): words and numbers separated by spaces and commas, a text between double quotes, a comment
from a semicolon on. Log entry 20 fixes what R119 leaves open. -/

/-- A token of a line. -/
inductive Token where
  | word (cs : List Char)
  | quoted (cs : List Char)
deriving DecidableEq, Repr

/-- Close the word being read, if there is one. The word's characters come in reverse. -/
def closeWord (cur : List Char) (ts : List Token) : List Token :=
  if cur = [] then ts else .word cur.reverse :: ts

/-- Cut a line into tokens. `quote` says whether a text is being read; none is a text without its closing mark. -/
def tokens : Bool → List Char → List Char → Option (List Token)
  | false, cur, [] => some (closeWord cur [])
  | true, _, [] => none
  | true, cur, c :: cs =>
    if c = '"' then (tokens false [] cs).map (fun ts => .quoted cur.reverse :: ts) else tokens true (c :: cur) cs
  | false, cur, c :: cs =>
    if c = ';' then some (closeWord cur [])
    else if c = '"' then (tokens true [] cs).map (closeWord cur)
    else if c = ' ' ∨ c = ',' ∨ c = '\t' then (tokens false [] cs).map (closeWord cur)
    else tokens false (c :: cur) cs

/-- The value of a digit in a base. -/
def digitVal (base : Nat) (c : Char) : Option Nat :=
  let n := c.toNat
  let v :=
    if 48 ≤ n ∧ n ≤ 57 then n - 48
    else if 65 ≤ n ∧ n ≤ 70 then n - 55
    else if 97 ≤ n ∧ n ≤ 102 then n - 87
    else 16
  if v < base then some v else none

/-- The digits of a number, read onto `acc`. -/
def readDigits (base : Nat) : Nat → List Char → Option Nat
  | acc, [] => some acc
  | acc, c :: cs =>
    match digitVal base c with
    | some d => readDigits base (base * acc + d) cs
    | none => none

/-- A number, decimal or 0x-hexadecimal (R119). -/
def readNumber : List Char → Option Nat
  | [] => none
  | '0' :: 'x' :: c :: cs => readDigits 16 0 (c :: cs)
  | c :: cs => readDigits 10 0 (c :: cs)

/-- The register names (R119) with their offsets (R40). -/
def regNames : List (List Char × Nat) :=
  [ (['C', 'M', 'D'], 0x00),
    (['S', 'T', 'A', 'T', 'U', 'S'], 0x04),
    (['R', 'E', 'F', 'R', 'E', 'S', 'H'], 0x08),
    (['D', 'E', 'V', 'A', 'D', 'D', 'R'], 0x0C),
    (['S', 'T', 'A', 'G', 'E', '0'], 0x10),
    (['S', 'T', 'A', 'G', 'E', '1'], 0x14),
    (['S', 'T', 'A', 'G', 'E', '2'], 0x18),
    (['S', 'T', 'A', 'G', 'E', '3'], 0x1C),
    (['F', 'A', 'U', 'L', 'T', 'S'], 0x20),
    (['L', 'A', 'S', 'T', '_', 'E', 'R', 'R'], 0x24),
    (['P', 'A', 'D', 'S'], 0x28),
    (['T', 'E', 'X', 'T', '0'], 0x40),
    (['T', 'E', 'X', 'T', '1'], 0x50) ]

/-- The offset of a register name. -/
def regOffset (cs : List Char) : Option Nat := (regNames.find? (fun r => r.1 = cs)).map (·.2)

/-- An offset: a number, a register name, or a name plus a number. R119 gives the sum only as TEXT0+4k; that any name plus
any number is read is the model's. DESIGN CHOICE (log entry 20). -/
def readOffset (cs : List Char) : Option Nat :=
  match readNumber cs with
  | some n => some n
  | none =>
    match regOffset (cs.takeWhile (· ≠ '+')), cs.dropWhile (· ≠ '+') with
    | some o, [] => some o
    | some o, _ :: ds => (readNumber ds).map (o + ·)
    | none, _ => none

/-- A text's characters as bytes; none where a character is no byte. -/
def textBytes : List Char → Option (List Byte)
  | [] => some []
  | c :: cs =>
    match textBytes cs with
    | some bs => if c.toNat < 256 then some (BitVec.ofNat 8 c.toNat :: bs) else none
    | none => none

/-- The mnemonics that stand alone on a line (R120, R123). -/
def bareLines : List (List Char × AsmLine) :=
  [ (['I', 'N', 'I', 'T'], .init),
    (['C', 'L', 'E', 'A', 'R'], .clear),
    (['S', 'Y', 'N', 'C'], .sync),
    (['F', 'A', 'U', 'L', 'T', '_', 'I', 'N', 'J', 'E', 'C', 'T'], .faultInject),
    (['B', 'L', 'O', 'N'], .blon),
    (['B', 'L', 'O', 'F', 'F'], .bloff),
    (['W', 'A', 'I', 'T', 'I', 'N', 'I', 'T'], .waitInit),
    (['I', 'N', 'I', 'T', 'W'], .initw),
    (['W', 'A', 'I', 'T', 'S', 'Y', 'N', 'C'], .waitSync),
    (['S', 'Y', 'N', 'C', 'W'], .syncw) ]

/-- A line with operands: its mnemonic and its numeric operands. -/
def numericLine (m : List Char) (ns : List (Option Nat)) : Option AsmLine :=
  match ns with
  | [some a] => if m = ['B', 'A', 'C', 'K', 'L', 'I', 'G', 'H', 'T'] then some (.backlight a) else none
  | [some a, some b, some c, some d] => if m = ['W', 'R', 'I', 'T', 'E'] then some (.write a b c d) else none
  | _ => none

/-- A line whose first operand is an offset (R121). -/
def offsetLine (m : List Char) (off : Option Nat) (ns : List (Option Nat)) : Option AsmLine :=
  match off, ns with
  | some o, [] => if m = ['L', 'D', 'W'] then some (.ldw o) else none
  | some o, [some v] => if m = ['S', 'T', 'W'] then some (.stw o v) else none
  | some o, [some k, some v] => if m = ['P', 'O', 'L', 'L'] then some (.poll o k v) else none
  | _, _ => none

/-- The number a token stands for. -/
def tokenNumber : Token → Option Nat
  | .word cs => readNumber cs
  | .quoted _ => none

/-- A line's tokens read as a line. -/
def lineOfTokens : List Token → Option AsmLine
  | [.word m] => (bareLines.find? (fun r => r.1 = m)).map (·.2)
  | [.word m, .word r, .word c, .word w, .quoted t] =>
    if m = ['P', 'R', 'I', 'N', 'T'] then
      match readNumber r, readNumber c, readNumber w, textBytes t with
      | some r, some c, some w, some bs => some (.print r c w bs)
      | _, _, _, _ => none
    else none
  | .word m :: .word o :: ts =>
    match numericLine m (readNumber o :: ts.map tokenNumber) with
    | some l => some l
    | none => offsetLine m (readOffset o) (ts.map tokenNumber)
  | _ => none

/-- A line of text: none is an error, some none an empty or comment line (R119). -/
def readLine (cs : List Char) : Option (Option AsmLine) :=
  match tokens false [] cs with
  | none => none
  | some [] => some none
  | some ts => (lineOfTokens ts).map some

end Sys2Proof.Machine
end

