-- ==== Sys2Proof/Tests/Slice0.lean ====
section
/-! SUPPORT. Tests on single steps, expected results from spec/95_test_vectors.md (the vector is named at each test), the
WellFormed smoke tests, and for every obligation with hypotheses a witness: a concrete state and operands that meet them
all. -/

namespace Sys2Proof.Tests

open Sys2Proof Sys2Proof.Machine

/-! ### WellFormed: an ill-formed term for each check -/

theorem test_params_default_wf : Params.default.wf = true := by decide
theorem test_params_addresses_refused : ({ aLo := 0 } : Params).addressesOk = false := by decide
theorem test_params_oled_outside_refused : ({ oledAddr := 0x30 } : Params).addressesOk = false := by decide
theorem test_params_tries_refused : ({ recoverTries := 0 } : Params).timesOk = false := by decide
theorem test_params_wait_refused : ({ tWait := 9999 } : Params).timesOk = false := by decide
theorem test_params_watchdog_refused : ({ tWdt := 23200 } : Params).watchdogOk = false := by decide
theorem test_params_glyph_refused :
    ({ glyphW := 0 } : Params).glyphOk = false ∧ ({ glyphW := 9 } : Params).glyphOk = false := by decide

/-! ### Decoding: words written out bit by bit from R100 to R108 (V-DEC) -/

/-- OP 0001, every other bit 0. -/
theorem test_decode_init : decode 0b0001_0000000000000000000000000000#32 = .ok .init := by decide
/-- OP 0010, [27:25] 000, ROW [24] 1, [23:21] 000, COL [20:16] 10111, MINW [15:8] 10000001, [7:5] 000, LEN [4:0] 01010. -/
theorem test_decode_write :
    decode 0b0010_000_1_000_10111_10000001_000_01010#32 = .ok (.write 1 23 129 10) := by decide
theorem test_decode_clear : decode 0b0011_0000000000000000000000000000#32 = .ok .clear := by decide
/-- OP 0100, [27:1] 0, ON [0] 1. -/
theorem test_decode_backlight : decode 0b0100_000000000000000000000000000_1#32 = .ok (.backlight 1) := by decide
theorem test_decode_sync : decode 0b0101_0000000000000000000000000000#32 = .ok .sync := by decide
theorem test_decode_fault_inject : decode 0b0110_0000000000000000000000000000#32 = .ok .faultInject := by decide
/-- V-DEC-2, 4, 6, 7, 8, 10. -/
theorem test_decode_reserved_bits : decode 0x10000001 = .error .reservedBits ∧ decode 0x211F00FF = .error .reservedBits ∧
    decode 0x22000000 = .error .reservedBits ∧ decode 0x20200000 = .error .reservedBits ∧
    decode 0x3000000F = .error .reservedBits ∧ decode 0x40000002 = .error .reservedBits := by decide
/-- V-DEC-13, 14. -/
theorem test_decode_reserved_op : decode 0x00000000 = .error .reservedOp ∧ decode 0x70000000 = .error .reservedOp ∧
    decode 0xF0000000 = .error .reservedOp ∧ decode 0xFFFFFFFF = .error .reservedOp := by decide
/-- E1, E2, V-WR-8. -/
theorem test_encode : encode (.write 0 0 16 2) = 0x20001002 ∧ encode (.write 0 10 0 8) = 0x200A0008 ∧
    encode (.write 1 15 0 31) = 0x210F001F ∧ encode (.backlight 1) = 0x40000001 := by decide

/-! ### Small states -/

/-- An HD44780 at 0x27 in a phase. -/
def lcd (p : Phase) : State := { State.reset with phase := p, devAddr := 0x27 }
/-- An SSD1306 at 0x3C in a phase. -/
def oled (p : Phase) : State := { State.reset with phase := p, devAddr := 0x3C }
/-- INIT of a first discovery at a waiting point. -/
def first (w : WaitPoint) : State := { State.reset with phase := .init, waitAt := w }
/-- A probe of 0x27 at a waiting point, 0x38 left to try. -/
def probing (w : WaitPoint) : State :=
  { first w with istep := .probe, probeA := 0x27, probeRest := [0x38], txAddr := 0x27 }
/-- A bring-up of an HD44780 at a waiting point. -/
def bringing (p : Phase) (w : WaitPoint) : State := { lcd p with waitAt := w, istep := .bringUp, txAddr := 0x27 }
/-- The next turn. -/
def withTurn (s : State) (t : Turn) : State := { s with sched := [t] }
/-- HOST makes this access next. -/
def withAccess (s : State) (op : HostOp) : State := { s with sched := [.host], hostProg := [op] }
/-- STAGE holds these bytes. -/
def staged (s : State) (bs : List Byte) : State := { s with stage := Memory.fill stageBg s.stage bs }
/-- Row 1 is sixteen stars (95, WRITE). -/
def starred : State := { State.reset with text := (List.range 16).map (fun c => (16 + c, 0x2A#8)) }
/-- A row of TEXT. -/
def rowOf (s : State) (r : Nat) : List Byte := (List.range 16).map (s.cell r)

/-! ### The commands -/

/-- E1. -/
theorem test_write_pads : nextIs (exec (.write 0 0 16 2) (staged starred [0x48, 0x69])) (fun t =>
    decide (rowOf t 0 = [0x48, 0x69] ++ List.replicate 14 0x20 ∧ rowOf t 1 = List.replicate 16 0x2A)) = true := by
  decide
/-- V-WR-8: LEN 31 acts as 16 and is clipped at column 16. -/
theorem test_write_clips : nextIs (exec (.write 1 15 0 31) (staged starred [0x30, 0x31])) (fun t =>
    decide (rowOf t 1 = List.replicate 15 0x2A ++ [0x30] ∧ rowOf t 0 = List.replicate 16 0x20)) = true := by
  decide
/-- V-CLR-1. -/
theorem test_clear : nextIs (exec .clear starred) (fun t =>
    decide (rowOf t 0 = List.replicate 16 0x20 ∧ rowOf t 1 = List.replicate 16 0x20)) = true := by decide
/-- V-BL-1. -/
theorem test_backlight_on : nextIs (exec (.backlight 1) State.reset) (fun t => decide (t.statusWord = 0x00008000)) = true := by
  decide
/-- R145 with ON = 0. -/
theorem test_backlight_off : nextIs (exec (.backlight 0) { State.reset with bl := true, cmdErr := true }) (fun t =>
    decide (t.statusWord = 0)) = true := by decide
/-- V-SYNC-2: from 254 the second tick ends the SYNC at 0. -/
theorem test_sync_wraps : nextIs (exec .sync { lcd .xfer with refreshCount := 254 }) (fun t =>
    decide (t.refreshTick.refreshTick.refreshWord = 0x00000200 ∧ t.refreshTick.syncBusy = true ∧
      t.refreshTick.refreshTick.syncBusy = false)) = true := by decide
/-- V-SYNC-3: a second SYNC restarts the count. -/
theorem test_sync_restarts : nextIs (exec .sync { lcd .xfer with syncBusy := true, syncSeen := 1 }) (fun t =>
    decide (t.syncSeen = 0 ∧ t.syncBusy = true)) = true := by decide
/-- V-ACC-6. -/
theorem test_inject_accepted : nextIs (exec .faultInject (oled .reopenStop)) (fun t =>
    t.injPend && !t.cmdErr) = true := by decide
/-- V-ACC-1. -/
theorem test_inject_rejected : nextIs (exec .faultInject State.reset) (fun t => !t.injPend && t.cmdErr) = true := by decide
/-- V-ACC-7: the teardown adds ABORT, FAULT_COUNT stays. -/
theorem test_init_tears_down : nextIs
    (exec .init { lcd .xfer with link := { Link.reset with opn := true }, faultCount := 3, injPend := true }) (fun t =>
    decide (t.wire = [.abort] ∧ t.phase = .init ∧ t.faultCount = 3 ∧ t.injPend = false ∧ t.link.opn = false)) = true := by
  decide
/-- V-ACC-2. -/
theorem test_init_rejected : nextIs (exec .init (first .floatSettle)) (fun t =>
    decide (t = { first .floatSettle with cmdErr := true })) = true := by decide

/-! ### Registers, encoders, reset -/

/-- 95, after the V-DEC table: a rejected word shows in STATUS, the next command clears it. -/
theorem test_rejected_word : nextIs (cmdWrite State.reset 0x70000000) (fun t => decide (t.statusWord = 0x10) &&
    nextIs (cmdWrite t 0x30000000) (fun u => decide (u.statusWord = 0))) = true := by decide
/-- P3's end state. -/
theorem test_status_word : ({ lcd .waitSb with bl := true, lastEvt := some .inj } : State).statusWord = 0x00609102 := by
  decide
/-- V-DISC-10. -/
theorem test_status_failed : ({ State.reset with initFailed := true, failCause := .busWiring, wedgeSeen := true
                                                 wedgeStuck := true } : State).statusWord = 0x000004C4 := by decide
/-- V-REG-2. -/
theorem test_pads_reset : State.reset.regRead .pads = 0x00000344 := by decide
/-- V-REG-7. -/
theorem test_stage_write : nextIs (regWrite State.reset (.stage 2) 0xDDCCBBAA) (fun t =>
    decide ([8, 9, 10, 11].map t.stageAt = [0xAA, 0xBB, 0xCC, 0xDD] ∧ t.regRead (.stage 2) = 0xDDCCBBAA)) = true := by
  decide
/-- E1: TEXT0. -/
theorem test_text_word : nextIs (exec (.write 0 0 16 2) (staged State.reset [0x48, 0x69])) (fun t =>
    decide (t.regRead (.text 0 0) = 0x20206948)) = true := by decide
/-- V-LCD-1, V-LCD-13. -/
theorem test_emit8 : emit8 true 0x48 true = [0x49, 0x4D, 0x49, 0x89, 0x8D, 0x89] ∧
    emit8 true 0xC0 false = [0xC8, 0xCC, 0xC8, 0x08, 0x0C, 0x08] := by decide
/-- E5. -/
theorem test_decode6_invalid : decode6 0x49 0x49 0x49 0x89 0x8D 0x89 = none ∧
    decode6 0x49 0x4D 0x49 0x88 0x8C 0x88 = none := by decide
/-- V-LCD-15: the first twelve bytes, the second row's command and the last byte. -/
theorem test_lcd_snapshot : (lcdPayload .default false []).take 12 =
      [0x80, 0x84, 0x80, 0x00, 0x04, 0x00, 0x21, 0x25, 0x21, 0x01, 0x05, 0x01] ∧
    ((lcdPayload .default false []).drop 102).take 6 = [0xC0, 0xC4, 0xC0, 0x00, 0x04, 0x00] ∧
    (lcdPayload .default false [])[203]? = some 0x01 := by decide
/-- V-DISC-13, steps 0 and 8. -/
theorem test_bring_bytes : bringBytes true [.nibble 0x3] = [0x38, 0x3C, 0x38] ∧
    bringBytes true [.command 0x28, .command 0x08, .command 0x01] =
      [0x28, 0x2C, 0x28, 0x88, 0x8C, 0x88, 0x08, 0x0C, 0x08, 0x88, 0x8C, 0x88, 0x08, 0x0C, 0x08, 0x18, 0x1C, 0x18] := by
  decide
/-- V-ADR-2, V-ADR-4. -/
theorem test_addr_byte : addrByte 0x27 = 0x4E ∧ addrByte 0x3C = 0x78 := by decide
/-- P2's first two lines assembled. -/
theorem test_print : assemble (.print 0 0 16 [0x48, 0x69]) =
    some [.write .word 0x10 0x00006948, .write .word 0x00 0x20001002] := by decide
/-- R120: an operand out of range is an assembler error. -/
theorem test_assemble_refused : assemble (.write 2 0 0 0) = none ∧ assemble (.backlight 2) = none := by decide
/-- R119: names, offsets, hexadecimal, a comment. -/
theorem test_read_line :
    readLine ['P', 'O', 'L', 'L', ' ', 'T', 'E', 'X', 'T', '0', '+', '4', ',', '0', 'x', 'F', 'F', ',', ' ', '1', ' ', ';', 'a'] =
      some (some (.poll 0x44 0xFF 1)) := by decide

/-! ### Discovery, the loop, the faults -/

/-- V-DISC-16: the pads through the wedge check and the pulse. -/
theorem test_pad_trace :
    (first .initEntry).seqTurn.padsWord &&& 0xFF = 0x66 ∧
    (first .initEntry).seqTurn.pulseStart.padsWord &&& 0xFF = 0x26 ∧
    (first .initEntry).seqTurn.pulseStart.pulseClockLow.padsWord &&& 0xFF = 0x22 ∧
    (first .initEntry).seqTurn.afterWedge.padsWord &&& 0xFF = 0x55 ∧
    (first .initEntry).seqTurn.configureLink.padsWord &&& 0xFF = 0x77 := by decide
/-- V-DISC-10: TRIES reaches RECOVER_TRIES with the line still held. -/
theorem test_wedge_stuck : ({ first .pulseDataHigh with busSda := false } : State).seqTurn.wedgeStuck = true := by decide
/-- V-DISC-4: a refused probe aborts, and the next address is tried. -/
theorem test_probe_refused :
    let s : State := { probing .txAddr with link := { Link.reset with en := true, opn := true, err := 1 } }
    s.seqTurn.wire = [.abort] ∧ s.seqTurn.probeA = 0x38 ∧ s.seqTurn.link.startReq = true ∧ s.seqTurn.link.err = 0 := by
  decide
/-- R192, by R117 and as V-FLT-8 has it ("W X if open"): after a START the error adds X, without one nothing (log entry 24);
the next address is tried. -/
theorem test_probe_error_before_start :
    let s : State := { probing .txSb with link := { Link.reset with en := true, startReq := true, err := 4 } }
    let u : State := { s with wire := [.start], link := { Link.reset with en := true, opn := true, err := 4 } }
    s.seqTurn.wire = [] ∧ s.seqTurn.probeA = 0x38 ∧ s.seqTurn.link.startReq = true ∧ u.seqTurn.wire = [.start, .abort] := by
  decide
/-- V-DISC-5: a link that stalls at the first START times out, and W gains nothing. -/
theorem test_probe_timeout_before_start :
    let s : State := { probing .txSb with now := 10001, link := { Link.reset with en := true, startReq := true } }
    s.seqTurn.wire = [] ∧ s.seqTurn.busDead = true ∧ s.seqTurn.failCause = .deviceNotFound := by decide
/-- R188, R196, R200: a re-run configures the link again, at STD for an HD44780 and at FAST for an SSD1306, and begins the
bring-up. -/
theorem test_rerun :
    let s : State := { lcd .init with waitAt := .wedgeSettle, link := { Link.reset with speed := .fast } }
    let u : State := { oled .init with waitAt := .wedgeSettle }
    s.seqTurn.link = { Link.reset with en := true, startReq := true } ∧ s.seqTurn.txBytes = bringBytes false [.nibble 0x3] ∧
    u.seqTurn.link = { Link.reset with en := true, speed := .fast, startReq := true } ∧ u.seqTurn.txAddr = 0x3C := by
  decide
/-- V-DISC-1: the acknowledged probe. -/
theorem test_probe_found : (probing .txStop).seqTurn.devAddr = 0x27 ∧ (probing .txStop).seqTurn.mode = .lcd := by decide
/-- V-ENG-3, 4, 5. -/
theorem test_dma :
    nextIs (dmaTurn { lcd .xfer with chEn := true, chCnt := 1, chPtr := 203, link := { Link.reset with data := true } })
      (fun t => decide (t.chPtr = 204 ∧ t.chCnt = 0 ∧ t.tcPend = true ∧ t.link.q = [0])) = true ∧
    ({ lcd .waitAddr with chEn := true, chCnt := 204, link := { Link.reset with data := true } } : State).dmaReady = false ∧
    ({ lcd .xfer with chEn := true, chCnt := 9, link := { Link.reset with data := true, q := [1, 2] } } : State).dmaReady =
      false := by decide
/-- V-ENG-1. -/
theorem test_sb : ({ lcd .waitSb with evtEn := true, link := { Link.reset with sb := true } } : State).seqTurn.link.addrReq =
    some 0x4E := by decide
/-- V-ENG-11. -/
theorem test_stop_done : (oled .reopenStop).seqTurn.lastEvt = some .stopDone ∧
    ({ oled .reopenStop with refreshCount := 255 } : State).seqTurn.refreshCount = 0 := by decide
/-- V-FLT-3: ERR wins over TC. -/
theorem test_err_over_tc :
    ({ lcd .xfer with errEn := true, tcPend := true, link := { Link.reset with err := 2 } } : State).seqTurn.lastErrWord =
      0x00000012 := by decide
/-- V-WDT-3: TC wins over TO and clears it. -/
theorem test_tc_over_to : ({ lcd .xfer with tcPend := true, toPend := true } : State).seqTurn.toPend = false ∧
    ({ lcd .xfer with tcPend := true, toPend := true } : State).seqTurn.faultCount = 0 := by decide
/-- V-FLT-6. -/
theorem test_fault_wraps : ({ lcd .xfer with injPend := true, faultCount := 0xFFFF } : State).seqTurn.faultCount = 0 := by
  decide

/-! ### Placing a command -/

/-- The very next step after withFetchWord runs the word (log entry 8). -/
theorem test_fetch_word : nextIs (step (State.reset.withFetchWord 32 0x10000000)) (fun t =>
    decide (t.phase = .init ∧ t.waitAt = .initEntry)) = true ∧ decodeTableWord 32 0x2110FF1F = some (.write 1 16 255 31) := by
  decide

/-! ### Witnesses: for each obligation with hypotheses, a state and operands that meet them, clause by clause -/

theorem witness_EncodeDecodeWord : decode 0x211FFF1F = .ok (.write 1 31 255 31) := by decide

theorem witness_RejectedWords : decode 0x00000000 = .error .reservedOp ∧ (∀ i, decode 0x00000000 ≠ .ok i) ∧
    (first .idle).phase = .init ∧ (lcd .recover).phase = .recover ∧ State.reset.phase = .off :=
  ⟨by decide, fun i h => (by rw [show decode 0x00000000 = .error .reservedOp by decide] at h; cases h), rfl, rfl, rfl⟩

theorem witness_OperandFields : (0x211FFF1F : Word) &&& 0xFEE000E0 = 0x20000000 ∧ (0x40000001 : Word) &&& 0xFFFFFFFE = 0x40000000 ∧
    ((0xF0000000 : Word) ≠ 0x10000000 ∧ (0xF0000000 : Word) &&& 0xFEE000E0 ≠ 0x20000000 ∧ (0xF0000000 : Word) ≠ 0x30000000 ∧
      (0xF0000000 : Word) &&& 0xFFFFFFFE ≠ 0x40000000 ∧ (0xF0000000 : Word) ≠ 0x50000000 ∧ (0xF0000000 : Word) ≠ 0x60000000) ∧
    15 < min (31 : BitVec 5).toNat 16 := by decide

theorem witness_StepRunsDecodedCommand :
    (withAccess State.reset (.write .word 0x00 0x30000000)).turn = .host ∧
    (withAccess State.reset (.write .word 0x00 0x30000000)).hostProg = .write .word 0x00 0x30000000 :: [] ∧
    decode 0x30000000 = .ok .clear ∧ decode 0x30000001 = .error .reservedBits ∧
    (withTurn State.reset .seq).turn = .seq ∧ (withTurn State.reset .tick).turn = .tick ∧
    (withTurn State.reset .dma).turn = .dma ∧ (withTurn State.reset (.link .start)).turn = .link .start ∧
    (withTurn State.reset (.bus false true)).turn = .bus false true ∧
    (withTurn State.reset .host).turn = .host ∧ (withTurn State.reset .host).hostProg = [] := by decide

theorem witness_InitTakesEffect : State.reset.phase = .off ∧
    ((oled .reopenStop).phase ≠ .off ∧ (oled .reopenStop).phase ≠ .init ∧ (oled .reopenStop).phase ≠ .recover) := by decide

theorem witness_AcceptanceTable :
    (match Instr.faultInject, (lcd .waitSb).phase with
      | .init, .init => false
      | .init, .recover => false
      | .faultInject, .off => false
      | .faultInject, .init => false
      | .faultInject, .recover => false
      | _, _ => true) = true ∧
    (match Instr.init, (lcd .recover).phase with
      | .init, .init => false
      | .init, .recover => false
      | .faultInject, .off => false
      | .faultInject, .init => false
      | .faultInject, .recover => false
      | _, _ => true) = false := by decide

/-- Boundary cells of each clause: the last copied, the first and last padded, the one past them. -/
theorem witness_WriteClosedForm : nextIs (exec (.write 1 5 6 3) (staged starred [0x41, 0x42, 0x43])) (fun t =>
    decide (t.cell 1 7 = 0x43 ∧ t.cell 1 8 = 0x20 ∧ t.cell 1 10 = 0x20 ∧ t.cell 1 11 = 0x2A ∧ t.cell 0 5 = 0x20)) = true := by
  decide

theorem witness_ClearBlanksBothRows : nextIs (exec .clear starred) (fun t =>
    decide (t.cell 1 15 = 0x20 ∧ Memory.read textBg t.text 32 = Memory.read textBg starred.text 32)) = true := by decide

theorem witness_ClearEqualsTwoWrites : Memory.wf textBg Config.textSize starred.text = true := by decide

theorem witness_FlagCommandsComplete :
    (lcd .xfer).phase ≠ .off ∧ (lcd .xfer).phase ≠ .init ∧ (lcd .xfer).phase ≠ .recover := by decide

theorem witness_CommandsKeepTransfers : Instr.sync ≠ .init ∧ Instr.sync ≠ .faultInject := by decide

theorem witness_InjectTakenNext :
    let s : State := { oled .reopenBtf with injPend := true, tcPend := true }
    (s.phase ≠ .off ∧ s.phase ≠ .init ∧ s.phase ≠ .recover ∧ s.injPend = true ∧ ¬(s.errEn = true ∧ s.link.err ≠ 0)) ∧
    (({ s with errEn := true, link := { Link.reset with err := 1 } } : State).errEn = true) ∧
    (withTurn s .tick).turn ≠ .seq ∧ (withTurn s .tick).turn ≠ .host ∧ (withTurn s .tick).turn ≠ .powerOn := by decide
theorem witness_InjectTakenNext_step :
    step (withTurn (lcd .xfer) .tick) = .next (withTurn (lcd .xfer) .tick).turnTaken.tickTurn := rfl

theorem witness_RegisterReads :
    (withAccess State.reset (.read .word 0x5C)).turn = .host ∧
    (withAccess State.reset (.read .word 0x5C)).hostProg = .read .word 0x5C :: [] ∧ regAt 0x5C = some (.text 1 3) ∧
    (withAccess State.reset (.poll 0x04 0x1 0x0)).hostProg = .poll 0x04 0x1 0x0 :: [] ∧ regAt 0x04 = some .status := by decide

/-- The clauses' edges: the last offset that decodes, the first past it, a misaligned one, a narrow access. -/
theorem witness_HostAccessDecoding :
    (0x5C % 4 = 0 ∧ 0x5C < 0x60) ∧ 0x60 ≤ 0x60 ∧ 0x06 % 4 ≠ 0 ∧ AccessWidth.half ≠ .word ∧
    (withAccess State.reset (.read .half 0x04)).turn = .host ∧
    (withAccess State.reset (.read .half 0x04)).hostProg = .read .half 0x04 :: [] ∧
    (withAccess State.reset (.write .word 0x60 1)).hostProg = .write .word 0x60 1 :: [] ∧
    (withAccess State.reset (.poll 0x06 1 0)).hostProg = .poll 0x06 1 0 :: [] ∧
    (withAccess State.reset (.poll 0x60 1 0)).hostProg = .poll 0x60 1 0 :: [] ∧
    (withAccess State.reset (.poll 0x5C 1 0)).hostProg = .poll 0x5C 1 0 :: [] ∧
    regAt (0x10 + 4 * 3) = some (.stage 3) ∧ regAt (0x2C + 4 * 4) = some .reserved ∧
    regAt (0x40 + 4 * 3) = some (.text 0 3) ∧ regAt (0x50 + 4 * 3) = some (.text 1 3) := by decide

theorem witness_StageRegister : 3 < 4 ∧ (11 < 4 * 3 ∨ 4 * 3 + 4 ≤ 11) ∧ nextIs (regWrite State.reset (.stage 3) 0x01020304) (fun t =>
    decide (t.stageAt 12 = 0x04 ∧ t.stageAt 15 = 0x01 ∧ t.stageAt 11 = 0x00 ∧ t.stageAt 16 = 0x00)) = true := by decide

theorem witness_IgnoredWrites : HostReg.text 1 3 ≠ .cmd ∧ (∀ k, HostReg.text 1 3 ≠ .stage k) :=
  ⟨by decide, fun _ => nofun⟩

theorem witness_TextWindows : (1 < 2 ∧ 3 < 4) ∧ regAt (0x40 + 16 * 1 + 4 * 3) = some (.text 1 3) := by decide

theorem witness_ResetValues : State.reset.cell 1 15 = 0x20 ∧ State.reset.stageAt 15 = 0 ∧
    State.reset.regRead (.stage 3) = 0 ∧ State.reset.regRead (.text 1 3) = 0x20202020 := by decide

theorem witness_ResetValues_again : ∃ u : State, (lcd .xfer).powerOn = u.powerOn := ⟨_, rfl⟩

theorem witness_PowerOnReset : (withTurn (lcd .xfer) .powerOn).turn = .powerOn := rfl

theorem witness_NibbleReversibility : decode6 0x49 0x4D 0x49 0x89 0x8D 0x89 = some (0x48, true, true) := by decide

theorem witness_GlyphTotality : glyph 0x20 = 0 ∧ glyph 0x7E = 94 ∧ glyph 0x1F = 0x0E ∧ glyph 0x7F = 0x0E := by decide

theorem witness_OledRowLayout :
    let p : Params := { glyphW := 6 }
    (1 < 2 ∧ 1 ≤ p.glyphW ∧ p.glyphW ≤ 8) ∧ (15 < 16 ∧ 5 < p.glyphW) ∧ (16 * p.glyphW ≤ 96 ∧ 96 < 128) ∧
      (16 * p.glyphW ≤ 127 ∧ 127 < 128) ∧ 256 ≤ 256 := by decide

theorem witness_RefreshTickCounts : (lcd .xfer).syncBusy = false ∧ ({ lcd .xfer with syncBusy := true } : State).syncBusy = true ∧
    exec .sync (lcd .xfer) = .next { lcd .xfer with cmdErr := false, syncBusy := true, syncSeen := 0 } := ⟨rfl, rfl, rfl⟩

theorem witness_LinkMoves :
    ({ Link.reset with en := true, addrReq := some 0x4E } : Link).en = true ∧
    ({ Link.reset with en := true, addrReq := some 0x4E } : Link).addrReq = some 0x4E ∧
    (Link.reset.en = false ∧ Link.reset.q = []) ∧
    (let l : Link := { Link.reset with en := true, data := true, q := [1, 2] }
     l.en = true ∧ l.data = true ∧ l.q = 1 :: [2]) := by decide

theorem witness_DmaChannel :
    (let s : State := { lcd .xfer with chEn := true, chCnt := 1, chPtr := 255, link := { Link.reset with data := true, q := [1] } }
     s.chEn = true ∧ s.chCnt ≠ 0 ∧ s.phase = .xfer ∧ s.link.data = true ∧ s.link.q.length ≤ 1 ∧ s.chPtr.toNat < 256) ∧
    ((lcd .xfer).chEn = false) ∧ ((lcd .xfer).chCnt = 0) ∧ ((lcd .waitAddr).phase ≠ .xfer) ∧ ((lcd .xfer).link.data = false) ∧
    2 ≤ ({ Link.reset with q := [1, 2] } : Link).q.length ∧ (1 ≤ 256 ∧ 256 ≤ 256) := by decide

theorem witness_LoopStartState : ((lcd .init).mode ≠ .none ∧ (lcd .init).mode = .lcd) ∧
    ((oled .init).mode ≠ .none ∧ (oled .init).mode = .oled) := by decide

/-- A state in which the event is taken, for each of the eight. -/
theorem witness_EventPriority :
    (let l : Link := { Link.reset with data := true, sent := true, sb := true, addr := true }
     ({ lcd .waitSb with evtEn := true, link := l } : State).nextEvent = some .sb ∧
     ({ lcd .waitAddr with evtEn := true, link := l } : State).nextEvent = some .addr ∧
     ({ oled .reopenBtf with link := l } : State).nextEvent = some .btf ∧
     ({ oled .reopenStop with link := l } : State).nextEvent = some .stopDone ∧
     ({ oled .reopenStop with link := l, toPend := true } : State).nextEvent = some .to ∧
     ({ lcd .xfer with link := l, toPend := true, tcPend := true } : State).nextEvent = some .tc ∧
     ({ lcd .xfer with link := l, injPend := true, tcPend := true } : State).nextEvent = some .inj ∧
     ({ lcd .xfer with link := { l with err := 8 }, errEn := true, injPend := true } : State).nextEvent = some .err ∧
     ({ lcd .xfer with link := l } : State).nextEvent = none) := by decide

theorem witness_LinkEventHandlers :
    (let s : State := { lcd .waitSb with evtEn := true, link := { Link.reset with sb := true } }
     s.noUrgent ∧ s.phase = .waitSb ∧ s.evtEn = true ∧ s.link.sb = true) ∧
    (let s : State := { lcd .waitAddr with evtEn := true, errEn := true, link := { Link.reset with addr := true } }
     s.noUrgent ∧ s.phase = .waitAddr ∧ s.evtEn = true ∧ s.link.addr = true) ∧
    (let s : State := { oled .reopenBtf with link := { Link.reset with data := true, sent := true } }
     s.noUrgent ∧ s.phase = .reopenBtf ∧ s.link.data = true ∧ s.link.q = [] ∧ s.link.sent = true) ∧
    ((oled .reopenStop).noUrgent ∧ (oled .reopenStop).phase = .reopenStop ∧ (oled .reopenStop).link.stopBusy = false) := by
  unfold State.noUrgent
  decide

theorem witness_TransferComplete :
    (let s : State := { lcd .xfer with tcPend := true, toPend := true, errEn := true }
     s.phase = .xfer ∧ s.tcPend = true ∧ s.injPend = false ∧ (s.errEn = true → s.link.err = 0) ∧ s.mode = .lcd) ∧
    (let s : State := { oled .xfer with tcPend := true, errEn := true }
     s.phase = .xfer ∧ s.tcPend = true ∧ s.injPend = false ∧ (s.errEn = true → s.link.err = 0) ∧ s.mode = .oled ∧
       s.oledCyc = .row0 ∧ ({ s with oledCyc := .row1 } : State).oledCyc = .row1 ∧
       ({ s with oledCyc := .reopen } : State).oledCyc = .reopen) := by decide

/-- V-ENG-12, V-ENG-13: SB and ADDR stand in XFER and are no events. -/
theorem witness_StaleConditionsIgnored :
    let s : State := { lcd .xfer with link := { Link.reset with sb := true, addr := true } }
    s.phase ≠ .init ∧ s.phase ≠ .recover ∧ s.noUrgent ∧ (s.phase = .waitSb → s.evtEn = false ∨ s.link.sb = false) ∧
      (s.phase = .waitAddr → s.evtEn = false ∨ s.link.addr = false) ∧
      (s.phase = .reopenBtf → s.link.data = false ∨ s.link.q ≠ [] ∨ s.link.sent = false) ∧
      (s.phase = .reopenStop → s.link.stopBusy = true) := by
  unfold State.noUrgent
  decide

theorem witness_LastEvtRecorded :
    (let s : State := { lcd .xfer with tcPend := true }
     s.phase ≠ .off ∧ s.phase ≠ .init ∧ s.phase ≠ .recover ∧ s.nextEvent = some .tc) ∧
    (lcd .recover).phase = .recover ∧ (withTurn (lcd .xfer) .tick).turn ≠ .seq ∧ (withTurn (lcd .xfer) .tick).turn ≠ .powerOn := by
  decide

theorem witness_FaultEntry :
    (let s : State := { lcd .waitSb with errEn := true, link := { Link.reset with err := 1 } }
     s.phase ≠ .off ∧ s.phase ≠ .init ∧ s.phase ≠ .recover ∧ s.errEn = true ∧ s.link.err ≠ 0) ∧
    (let s : State := { oled .reopenStop with errEn := true, injPend := true }
     s.phase ≠ .off ∧ s.phase ≠ .init ∧ s.phase ≠ .recover ∧ (s.errEn = true → s.link.err = 0) ∧ s.injPend = true) ∧
    (let s : State := { lcd .xfer with toPend := true, link := { Link.reset with err := 1 } }
     (s.errEn = true → s.link.err = 0) ∧ s.injPend = false ∧ s.tcPend = false ∧ s.toPend = true) := by decide

theorem witness_FaultSurvivors : Inv (bringing .recover .txStop) ∧ (bringing .recover .txStop).phase = .recover :=
  ⟨by constructor <;> decide, rfl⟩
/-- The other outcome: the handler's last bring-up step is done and the loop starts, OLED_CYC at ROW0. -/
theorem witness_FaultSurvivors_loop :
    let s : State := { oled .recover with waitAt := .txStop, istep := .bringUp, oledCyc := .row1 }
    Inv s ∧ s.phase = .recover ∧ s.mode = .oled ∧ s.bringSteps[s.bstep + 1]? = none :=
  ⟨by constructor <;> decide, rfl, rfl, rfl⟩

theorem witness_FaultCountOnlyByFaults :
    step (withTurn { lcd .xfer with injPend := true } .seq) =
      .next (withTurn { lcd .xfer with injPend := true } .seq).turnTaken.seqTurn := rfl

theorem witness_WatchdogFires : (lcd .xfer).wdtArmed = false ∧
    (let s : State := { lcd .xfer with wdtArmed := true }
     s.wdtArmed = true ∧ s.wdtCnt = 0 ∧ s.toPend = false ∧ 0 < s.params.tWdt ∧ 199999 < s.params.tWdt ∧
       s.params.tWdt ≤ 200000) := by decide

theorem witness_WedgeCheck :
    ((first .initEntry).phase = .init ∧ (first .initEntry).waitAt = .initEntry) ∧
    (({ first .wedgeSettle with delayEnd := 1 } : State).now < ({ first .wedgeSettle with delayEnd := 1 } : State).delayEnd) ∧
    (let s : State := { first .wedgeSettle with busSda := false }
     s.phase = .init ∧ s.waitAt = .wedgeSettle ∧ s.delayEnd ≤ s.now ∧ s.sclIn = true ∧ s.sdaIn = false) ∧
    ((first .wedgeSettle).delayEnd ≤ (first .wedgeSettle).now ∧ (first .wedgeSettle).sdaIn = true ∧
      (first .wedgeSettle).devAddr = 0) ∧
    (let s : State := { lcd .init with waitAt := .wedgeSettle, busScl := false }
     s.phase = .init ∧ s.waitAt = .wedgeSettle ∧ s.delayEnd ≤ s.now ∧ s.sclIn = false ∧ s.devAddr ≠ 0 ∧ s.mode = .lcd) ∧
    (let s : State := { oled .init with waitAt := .wedgeSettle }
     s.phase = .init ∧ s.waitAt = .wedgeSettle ∧ s.delayEnd ≤ s.now ∧ s.sdaIn = true ∧ s.devAddr ≠ 0 ∧ s.mode = .oled) := by
  decide

theorem witness_RecoveryPulse :
    (let s : State := { first .pulseClockLow with delayEnd := 1 }
     s.phase = .init ∧ s.waitAt = .pulseClockLow ∧ s.now < s.delayEnd) ∧
    ((first .pulseDataLow).delayEnd ≤ (first .pulseDataLow).now ∧ (first .pulseClockHigh).waitAt = .pulseClockHigh) ∧
    (let s : State := { first .pulseDataHigh with busSda := false, params := { recoverTries := 2 } }
     s.waitAt = .pulseDataHigh ∧ s.sclIn = true ∧ s.sdaIn = false ∧ s.tries + 1 < s.params.recoverTries) ∧
    (let s : State := { first .pulseDataHigh with busSda := false }
     s.sclIn = true ∧ s.sdaIn = false ∧ s.params.recoverTries ≤ s.tries + 1 ∧ s.devAddr = 0) ∧
    ((first .pulseDataHigh).waitAt = .pulseDataHigh ∧ (first .pulseDataHigh).sdaIn = true ∧
      (first .pulseDataHigh).devAddr = 0) ∧
    (let s : State := { lcd .init with waitAt := .pulseDataHigh, busSda := false, tries := 9 }
     s.phase = .init ∧ s.delayEnd ≤ s.now ∧ s.waitAt = .pulseDataHigh ∧ s.sclIn = true ∧ s.sdaIn = false ∧
       s.params.recoverTries ≤ s.tries + 1 ∧ s.devAddr ≠ 0) ∧
    (let s : State := { oled .init with waitAt := .pulseDataHigh }
     s.phase = .init ∧ s.delayEnd ≤ s.now ∧ s.waitAt = .pulseDataHigh ∧ s.sdaIn = true ∧ s.devAddr ≠ 0 ∧
       s.mode = .oled) := by decide

theorem witness_FloatCheck :
    (let s : State := { first .floatSettle with delayEnd := 1 }
     s.phase = .init ∧ s.waitAt = .floatSettle ∧ s.now < s.delayEnd) ∧
    (let s : State := { first .floatSettle with busScl := false }
     s.phase = .init ∧ s.waitAt = .floatSettle ∧ s.delayEnd ≤ s.now ∧ s.sclIn = false) ∧
    (let s : State := first .floatSettle
     s.phase = .init ∧ s.waitAt = .floatSettle ∧ s.delayEnd ≤ s.now ∧ s.sclIn = true ∧ s.sdaIn = true ∧
       probeOrder s.params = 0x20 :: [0x21, 0x22, 0x23, 0x24, 0x25, 0x26, 0x27,
         0x38, 0x39, 0x3A, 0x3B, 0x3C, 0x3D, 0x3E, 0x3F]) := by decide

theorem witness_ProbeOrder : Params.default.addressesOk = true := by decide

theorem witness_SyncTransfer :
    (let s : State := { bringing .recover .txSb with link := { Link.reset with sb := true, err := 1 } }
     s.phase = .recover ∧ s.waitAt = .txSb ∧ s.link.sb = true) ∧
    (let s : State := { bringing .init .txAddr with txBytes := [1], link := { Link.reset with addr := true } }
     s.phase = .init ∧ s.waitAt = .txAddr ∧ s.link.addr = true ∧ s.txBytes ≠ []) ∧
    (let s : State := { probing .txAddr with link := { Link.reset with addr := true } }
     s.phase = .init ∧ s.waitAt = .txAddr ∧ s.link.addr = true ∧ s.txBytes = []) ∧
    (let s : State := { bringing .init .txTxe with txBytes := [1], link := { Link.reset with data := true, q := [0] } }
     s.waitAt = .txTxe ∧ s.link.data = true ∧ s.link.q.length ≤ 1 ∧ s.txBytes = 1 :: []) ∧
    (let s : State := { bringing .init .txBtf with link := { Link.reset with data := true, sent := true } }
     s.waitAt = .txBtf ∧ s.link.data = true ∧ s.link.q = [] ∧ s.link.sent = true) := by decide

theorem witness_BoundedWait :
    (let s : State := { probing .txSb with now := 10000 }
     s.phase = .init ∧ s.waitAt = .txSb ∧ s.link.sb = false ∧ s.link.err = 0 ∧ s.now - s.w0 ≤ s.params.tWait) ∧
    (let s : State := { probing .txAddr with now := 10001 }
     s.waitAt = .txAddr ∧ s.link.addr = false ∧ s.istep = .probe ∧ s.link.err = 0 ∧ s.params.tWait < s.now - s.w0) ∧
    (let s : State := { probing .txAddr with probeRest := [], link := { Link.reset with err := 1 } }
     s.istep = .probe ∧ s.link.err ≠ 0 ∧ s.probeRest = []) ∧
    (let s : State := { probing .txAddr with link := { Link.reset with err := 1 } }
     s.istep = .probe ∧ s.link.err ≠ 0 ∧ s.probeRest = 0x38 :: []) ∧
    (let s : State := { bringing .recover .txTxe with link := { Link.reset with err := 1 } }
     s.phase = .recover ∧ s.waitAt = .txTxe ∧ s.link.txe = false ∧ s.istep ≠ .probe ∧ s.link.err ≠ 0) ∧
    ((bringing .init .txBtf).link.btf = false ∧
      ({ bringing .init .txStop with link := { Link.reset with stopBusy := true } } : State).link.stopBusy = true) := by decide

/-- An HD44780, and an SSD1306 (its bring-up list starts with a transfer too). -/
theorem witness_Classification :
    (let s : State := probing .txStop
     s.phase = .init ∧ s.istep = .probe ∧ s.waitAt = .txStop ∧ s.link.stopBusy = false ∧ s.probeA ≠ 0 ∧
       s.probeA ≠ s.params.oledAddr ∧ s.params.lcdBringUp[0]? = some (.tx [.nibble 0x3])) ∧
    (let s : State := { probing .txStop with probeA := 0x3C }
     s.phase = .init ∧ s.istep = .probe ∧ s.waitAt = .txStop ∧ s.link.stopBusy = false ∧ s.probeA ≠ 0 ∧
       s.probeA = s.params.oledAddr ∧ s.params.oledBringUp.tail = []) := by decide

theorem witness_BringUp :
    (let s : State := { bringing .init .bringDelay with bstep := 1 }
     s.phase = .init ∧ s.istep ≠ .probe ∧ s.waitAt = .bringDelay ∧ s.delayEnd ≤ s.now ∧ s.mode = .lcd ∧
       s.params.lcdBringUp[s.bstep + 1]? = some (.tx [.nibble 0x3])) ∧
    (let s : State := bringing .recover .txStop
     s.phase = .recover ∧ s.istep ≠ .probe ∧ s.waitAt = .txStop ∧ s.link.stopBusy = false ∧
       s.params.lcdBringUp[s.bstep + 1]? = some (.delay 5000) ∧
       s.params.lcdBringUp[({ s with bstep := 10 } : State).bstep + 1]? = none) ∧
    (let s : State := { bringing .recover .bringDelay with delayEnd := 1 }
     s.waitAt = .bringDelay ∧ s.now < s.delayEnd) ∧
    ((bringing .recover .recoverEntry).phase = .recover ∧ (bringing .recover .recoverEntry).waitAt = .recoverEntry) ∧
    (let s : State := { oled .recover with waitAt := .txStop, istep := .bringUp }
     s.phase = .recover ∧ s.istep ≠ .probe ∧ s.waitAt = .txStop ∧ s.link.stopBusy = false ∧ s.mode = .oled ∧
       s.params.oledBringUp[s.bstep + 1]? = none) := by decide

theorem witness_InitOutcomes : (Inv (probing .txStop) ∧ (probing .txStop).phase = .init) ∧
    (Inv (bringing .init .txBtf) ∧ (bringing .init .txBtf).phase = .init ∧ (bringing .init .txBtf).devAddr ≠ 0) :=
  ⟨⟨by constructor <;> decide, rfl⟩, by constructor <;> decide, rfl, by decide⟩

/-- A step that writes DEV_ADDR, and a step of a running machine. -/
theorem witness_DevAddrImmutable : Inv (withTurn (probing .txStop) .seq) ∧
    step (withTurn (probing .txStop) .seq) = .next (withTurn (probing .txStop) .seq).turnTaken.seqTurn ∧
    (withTurn (probing .txStop) .seq).turn ≠ .powerOn ∧
    (withTurn (probing .txStop) .seq).turnTaken.seqTurn.devAddr ≠ (withTurn (probing .txStop) .seq).devAddr :=
  ⟨by constructor <;> decide, rfl, by decide, by decide⟩
theorem witness_DevAddrImmutable_running : Inv (withTurn (lcd .xfer) .tick) ∧
    step (withTurn (lcd .xfer) .tick) = .next (withTurn (lcd .xfer) .tick).turnTaken.tickTurn ∧
    (withTurn (lcd .xfer) .tick).devAddr ≠ 0 := ⟨by constructor <;> decide, rfl, by decide⟩

/-- HOST's CLEAR, BACKLIGHT and a write to STAGE3 change TEXT, BL and STAGE; a TICK changes none. -/
theorem witness_StoreWriters :
    nextIs (step (withAccess starred (.write .word 0x00 0x30000000))) (fun t => decide (t.text ≠ starred.text)) = true ∧
    nextIs (step (withAccess starred (.write .word 0x00 0x40000001))) (fun t => decide (t.bl ≠ starred.bl)) = true ∧
    nextIs (step (withAccess starred (.write .word 0x1C 0x00000001))) (fun t => decide (t.stage ≠ starred.stage)) = true ∧
    nextIs (step (withTurn starred .tick)) (fun _ => true) = true ∧ (withTurn starred .tick).turn ≠ .host := by decide

theorem witness_RefreshOnlyByTick : Inv (withTurn (oled .reopenStop) .seq) ∧ (withTurn (oled .reopenStop) .seq).mode = .oled ∧
    step (withTurn (oled .reopenStop) .seq) = .next (withTurn (oled .reopenStop) .seq).turnTaken.seqTurn ∧
    (withTurn (oled .reopenStop) .seq).turnTaken.seqTurn.refreshCount ≠ (withTurn (oled .reopenStop) .seq).refreshCount :=
  ⟨by constructor <;> decide, rfl, rfl, by decide⟩

/-- A machine that hangs in REOPEN_BTF and one that hangs in REOPEN_STOP; HOST writes a CLEAR. -/
theorem witness_ReopenHang :
    (withTurn (oled .reopenBtf) .seq).hung ∧
    (withAccess { oled .reopenStop with link := { Link.reset with stopBusy := true } } (.write .word 0x00 0x30000000)).hung ∧
    decode 0x30000000 = .ok .clear := by
  unfold State.hung State.noUrgent
  decide
theorem witness_ReopenHang_step :
    step (withTurn (oled .reopenBtf) .seq) = .next (withTurn (oled .reopenBtf) .seq).turnTaken.seqTurn := rfl
theorem witness_ReopenHang_host : decode 0x30000000 ≠ .ok .init ∧ decode 0x30000000 ≠ .ok .faultInject :=
  ⟨fun h => (by rw [decode_clear] at h; cases h), fun h => (by rw [decode_clear] at h; cases h)⟩

theorem witness_InvKept : Inv (withTurn (first .floatSettle) .seq) ∧
    step (withTurn (first .floatSettle) .seq) = .next (withTurn (first .floatSettle) .seq).turnTaken.seqTurn :=
  ⟨by constructor <;> decide, rfl⟩

/-- The link in the data phase, its Q full. -/
theorem witness_LinkContractKept :
    let s : State := withTurn { lcd .xfer with link := { Link.reset with en := true, opn := true, data := true, q := [1, 2] } }
      (.link (.byte true))
    Inv s ∧ s.linkFits = true ∧ step s = .next (s.turnTaken.linkTurn (.byte true)) :=
  ⟨by constructor <;> decide, rfl, rfl⟩

theorem witness_OnlyHostFaults : Inv (withAccess State.reset (.read .word 0x60)) ∧
    step (withAccess State.reset (.read .word 0x60)) = .fault .hostBusError ∧ HostOpOutside (.read .word 0x60) :=
  ⟨by constructor <;> decide, rfl, Or.inr (Or.inr (by decide))⟩

end Sys2Proof.Tests
end

section
/-! The addresses ProbeAll tries (R191): each range in closed form, membership as R8 states it, and O47. -/

namespace Sys2Proof.Machine

/-- No address of a range wraps around: each is at most `hi`, so 7 bits hold it. -/
theorem map_toNat_addrRange (lo hi : BitVec 7) :
    (addrRange lo hi).map BitVec.toNat = List.range' lo.toNat (hi.toNat + 1 - lo.toNat) := by
  rw [addrRange, List.map_map, List.range'_eq_map_range]
  refine List.map_congr_left fun i hmem => ?_
  have hlt : lo.toNat + i < 2 ^ 7 := by
    have := List.mem_range.mp hmem
    omega
  exact BitVec.toNat_ofNat .. |>.trans (Nat.mod_eq_of_lt hlt)

@[simp] theorem mem_addrRange {lo hi a : BitVec 7} : a ∈ addrRange lo hi ↔ lo ≤ a ∧ a ≤ hi := by
  rw [← List.mem_map_of_injective BitVec.toNat_injective, map_toNat_addrRange, List.mem_range'_1,
    BitVec.le_def, BitVec.le_def]
  omega

/-- The probes reach exactly the addresses of R8's ranges. -/
@[simp] theorem mem_probeOrder {p : Params} {a : BitVec 7} : a ∈ probeOrder p ↔ p.inRanges a = true := by
  simp [probeOrder, Params.inRanges]

theorem inRanges_oledAddr_of_addressesOk {p : Params} (h : p.addressesOk = true) : p.inRanges p.oledAddr = true := by
  simp only [Params.addressesOk, Bool.and_eq_true] at h
  exact h.2

/-- Both ranges begin above 0 (R8). -/
theorem inRanges_zero_of_addressesOk {p : Params} (h : p.addressesOk = true) : p.inRanges 0 = false := by
  simp only [Params.addressesOk, Bool.and_eq_true, decide_eq_true_eq] at h
  obtain ⟨⟨⟨⟨hA, -⟩, hB⟩, -⟩, -⟩ := h
  rw [Params.inRanges, decide_eq_false (BitVec.not_le.mpr hA), decide_eq_false (BitVec.not_le.mpr hB)]
  rfl

/-- Settles O47: the order is the closed form of each range, and membership is R8's `inRanges`. -/
theorem probeOrder_spec : Obligations.ProbeOrder := by
  intro p
  refine ⟨by simp only [probeOrder, List.map_append, map_toNat_addrRange], fun hok => ?_⟩
  have hmem : p.oledAddr ∈ probeOrder p := mem_probeOrder.mpr (inRanges_oledAddr_of_addressesOk hok)
  have hzero : (0 : BitVec 7) ∉ probeOrder p := by
    rw [mem_probeOrder, inRanges_zero_of_addressesOk hok]
    exact Bool.false_ne_true
  exact ⟨hzero, hmem, List.ne_nil_of_mem hmem⟩

end Sys2Proof.Machine
end

section
/-! What a step may write, agent by agent, and O53. Each frame is one equation between projections of the state, so frames
compose by transitivity, and a record update inside a stretch of a procedure keeps its projection by rfl. -/

namespace Sys2Proof.Machine

/-- HOST's stores and the parameters. -/
def State.stores (s : State) : Params × Memory × Bool × Memory := (s.params, s.text, s.bl, s.stage)

/-- The fault record (R38). -/
def State.faultRecord (s : State) : BitVec 16 × BitVec 4 × ErrCause := (s.faultCount, s.lastErrRaw, s.lastErrCause)

/-- What only SEQ and a power-on reset write. -/
def State.seqOwned (s : State) : Params × BitVec 8 × BitVec 7 × BitVec 16 × BitVec 4 × ErrCause :=
  (s.params, s.refreshCount, s.devAddr, s.faultRecord)

/-- The state beside SEQ's procedure: the fields that INIT and the fault handler write are blanked. -/
def State.besideProc (s : State) : State :=
  { s with
    phase := .off, istep := .wedge, probeA := 0, tries := 0, bstep := 0, w0 := 0, waitAt := .idle, delayEnd := 0
    probeRest := [], txAddr := 0, txBytes := [], txSpeed := .std
    initFailed := false, failCause := .none, busDead := false, wedgeSeen := false, wedgeStuck := false
    sclMode := .puIn, sclLvl := true, sdaMode := .puIn, sdaLvl := true, link := .reset, wire := [] }

/-- Where a stretch of the procedure that begins in `u` may lead: to a state that differs from `u` in the procedure's
own fields alone, or to the loop, started on such a state. -/
def State.ProcLeads (u t : State) : Prop :=
  t.besideProc = u.besideProc ∨ ∃ v : State, v.besideProc = u.besideProc ∧ t = v.loopStart

theorem State.ProcLeads.of_beside {u u' t : State} (hb : u'.besideProc = u.besideProc) (h : u'.ProcLeads t) :
    u.ProcLeads t := by
  unfold State.ProcLeads
  rwa [← hb]

theorem State.exists_turnTaken (s : State) : ∃ l n, s.turnTaken = { s with sched := l, freeIdx := n } :=
  ⟨_, _, s.turnTaken_frame⟩

/-! The procedure. -/

theorem State.bringRun_leads (u : State) : u.ProcLeads u.bringRun := by
  have h := u.bringRun_bringsUp
  unfold State.BringsUp at h
  split at h
  · exact .inl (by rw [h]; rfl)
  · exact .inl (by rw [h]; rfl)
  · exact .inr ⟨u, rfl, h⟩

theorem State.afterWedge_leads (s : State) : s.ProcLeads s.afterWedge := by
  by_cases h : s.devAddr = 0
  · exact .inl (by rw [s.afterWedge_first h]; rfl)
  · rw [s.afterWedge_rerun h]
    exact (State.bringRun_leads _).of_beside rfl

theorem State.wedgeSample_leads (s : State) : s.ProcLeads s.wedgeSample := by
  unfold State.wedgeSample
  split
  · exact .inl rfl
  · exact s.afterWedge_leads

theorem State.wedgeRecheck_leads (s : State) : s.ProcLeads s.wedgeRecheck := by
  simp only [State.wedgeRecheck]
  split
  · split
    · exact .inl (by cases s; rfl)
    · refine State.ProcLeads.of_beside ?_ (State.afterWedge_leads _)
      cases s; rfl
  · refine State.ProcLeads.of_beside ?_ (State.afterWedge_leads _)
    rfl

@[simp] theorem State.failInit_beside (s : State) (c : FailCause) : (s.failInit c).besideProc = s.besideProc := by
  cases s; rfl

@[simp] theorem State.probeNext_beside (s : State) : s.probeNext.besideProc = s.besideProc := by
  unfold State.probeNext
  split <;> rfl

theorem State.floatSample_beside (s : State) : s.floatSample.besideProc = s.besideProc := by
  unfold State.floatSample
  split
  · exact State.probeNext_beside _
  · rfl

@[simp] theorem State.abortTx_beside (s : State) : s.abortTx.besideProc = s.besideProc := by
  cases s; rfl

/-- What a transfer's end leads to when it does not classify a device. -/
theorem State.txDone_leads (s : State) (r : WaitResult) (h : s.istep = .probe → r = .ok → s.probeA = 0) :
    s.ProcLeads (s.txDone r) := by
  unfold State.txDone
  split
  · rename_i hi
    cases r
    case ok => exact .inl (by simp [h hi rfl])
    case err => exact .inl s.probeNext_beside
    case timeout => exact .inl (State.failInit_beside _ _)
  · cases r
    case ok => exact (State.bringRun_leads _).of_beside rfl
    all_goals exact .inr ⟨s, rfl, rfl⟩

/-- A bounded wait goes on, or its transfer is over, or it holds. -/
theorem State.txWait_leads {s : State} {c : Bool} {go : State → State} (h : c = true → s.ProcLeads (go s)) :
    s.ProcLeads (s.txWait c go) := by
  unfold State.txWait
  split
  · exact .inl rfl
  · exact h ((s.waitCheck_ok c).mp ‹_›)
  · rw [State.errAbort_eq]
    exact (State.txDone_leads _ _ (by simp)).of_beside s.abortTx_beside
  · exact (State.txDone_leads _ _ (by simp)).of_beside s.abortTx_beside

theorem State.txGotAddr_beside (s : State) : s.txGotAddr.besideProc = s.besideProc := by
  unfold State.txGotAddr
  cases s
  split <;> rfl

theorem State.txGotTxe_beside (s : State) : s.txGotTxe.besideProc = s.besideProc := by
  unfold State.txGotTxe
  split
  · rfl
  · dsimp only
    split <;> rfl

theorem State.seqProc_delay_leads {s t : State} (h : s.ProcLeads t) : s.ProcLeads (if s.delayOver then t else s) := by
  split
  · exact h
  · exact .inl rfl

/-- Everything one SEQ step inside a procedure may do to what lies beside the procedure: the one stretch that writes
DEV_ADDR is the classification after a completed probe (R195). -/
theorem State.seqProc_leads (s : State) :
    s.ProcLeads s.seqProc ∨
      (s.istep = .probe ∧ s.waitAt = .txStop ∧ s.probeA ≠ 0 ∧
        State.ProcLeads { s with devAddr := s.probeA } s.seqProc) := by
  by_cases hc : s.istep = .probe ∧ s.waitAt = .txStop ∧ s.probeA ≠ 0 ∧ s.link.stopBusy = false
  · obtain ⟨hi, hw, ha, hb⟩ := hc
    refine .inr ⟨hi, hw, ha, ?_⟩
    rw [State.seqProc_txStop hw, State.txWait_ok (by simp [hb]), State.txDone, if_pos hi]
    simp only [if_neg ha]
    rw [s.classify_eq ha]
    exact (State.bringRun_leads _).of_beside rfl
  · refine .inl ?_
    cases hw : s.waitAt
    case idle => exact .inl (by rw [State.seqProc, hw])
    case initEntry => exact .inl (by rw [State.seqProc_initEntry hw]; rfl)
    case wedgeSettle =>
      rw [State.seqProc_wedgeSettle hw]
      exact State.seqProc_delay_leads s.wedgeSample_leads
    case pulseDataLow =>
      rw [State.seqProc_pulseDataLow hw]
      exact State.seqProc_delay_leads (.inl rfl)
    case pulseClockLow =>
      rw [State.seqProc_pulseClockLow hw]
      exact State.seqProc_delay_leads (.inl rfl)
    case pulseClockHigh =>
      rw [State.seqProc_pulseClockHigh hw]
      exact State.seqProc_delay_leads (.inl rfl)
    case pulseDataHigh =>
      rw [State.seqProc_pulseDataHigh hw]
      exact State.seqProc_delay_leads s.wedgeRecheck_leads
    case floatSettle =>
      rw [State.seqProc_floatSettle hw]
      exact State.seqProc_delay_leads (.inl s.floatSample_beside)
    case recoverEntry =>
      rw [State.seqProc_recoverEntry hw]
      exact (State.bringRun_leads _).of_beside rfl
    case bringDelay =>
      rw [State.seqProc_bringDelay hw]
      exact State.seqProc_delay_leads ((State.bringRun_leads _).of_beside rfl)
    case txSb =>
      rw [State.seqProc_txSb hw]
      exact State.txWait_leads fun _ => .inl rfl
    case txAddr =>
      rw [State.seqProc_txAddr hw]
      exact State.txWait_leads fun _ => .inl s.txGotAddr_beside
    case txTxe =>
      rw [State.seqProc_txTxe hw]
      exact State.txWait_leads fun _ => .inl s.txGotTxe_beside
    case txBtf =>
      rw [State.seqProc_txBtf hw]
      exact State.txWait_leads fun _ => .inl rfl
    case txStop =>
      rw [State.seqProc_txStop hw]
      refine State.txWait_leads fun hb => State.txDone_leads s .ok fun hi _ => not_not.mp fun ha => ?_
      exact hc ⟨hi, hw, ha, by simpa using hb⟩

/-! The loop start, the handlers and SEQ's whole turn. -/

@[simp] theorem State.loopStart_stores (s : State) : s.loopStart.stores = s.stores := by
  by_cases h : s.mode = .oled
  · rw [s.loopStart_oled h]; rfl
  · rw [s.loopStart_lcd h]; rfl

@[simp] theorem State.loopStart_devAddr (s : State) : s.loopStart.devAddr = s.devAddr := by
  by_cases h : s.mode = .oled
  · rw [s.loopStart_oled h]
  · rw [s.loopStart_lcd h]

@[simp] theorem State.loopStart_faultRecord (s : State) : s.loopStart.faultRecord = s.faultRecord := by
  by_cases h : s.mode = .oled
  · rw [s.loopStart_oled h]; rfl
  · rw [s.loopStart_lcd h]; rfl

/-- A view of the state that reads none of the procedure's own fields, and that LoopStart keeps, every stretch keeps. -/
theorem State.ProcLeads.keeps {α : Type} {u t : State} (h : u.ProcLeads t) (f : State → α)
    (hb : ∀ w : State, f w.besideProc = f w) (hl : ∀ w : State, f w.loopStart = f w) : f t = f u := by
  obtain h | ⟨v, h, rfl⟩ := h
  · rw [← hb t, h, hb]
  · rw [hl, ← hb v, h, hb]

theorem State.ProcLeads.stores_eq {u t : State} (h : u.ProcLeads t) : t.stores = u.stores :=
  h.keeps State.stores (fun _ => rfl) State.loopStart_stores

theorem State.ProcLeads.devAddr_eq {u t : State} (h : u.ProcLeads t) : t.devAddr = u.devAddr :=
  h.keeps State.devAddr (fun _ => rfl) State.loopStart_devAddr

theorem State.ProcLeads.faultRecord_eq {u t : State} (h : u.ProcLeads t) : t.faultRecord = u.faultRecord :=
  h.keeps State.faultRecord (fun _ => rfl) State.loopStart_faultRecord

/-- No handler writes HOST's stores or DEV_ADDR. -/
theorem State.handle_keeps (s : State) (e : Event) :
    (s.handle e).stores = s.stores ∧ (s.handle e).devAddr = s.devAddr := by
  cases s
  cases e <;> simp only [State.handle]
  case tc => unfold State.onTc; split <;> exact ⟨rfl, rfl⟩
  all_goals exact ⟨rfl, rfl⟩

/-- SEQ's turn: nothing in OFF, a stretch of the procedure, or an event of the loop (R326). -/
theorem State.seqTurn_cases (s : State) :
    s.seqTurn = s ∨ ((s.phase = .init ∨ s.phase = .recover) ∧ s.seqTurn = s.seqProc) ∨
      (s.phase.inLoop = true ∧ ∃ e, s.eventReady e = true ∧ s.seqTurn = (s.tookEvent e).handle e) := by
  have loop (hp : s.phase.inLoop = true) (h : s.seqTurn = s.seqLoop) : s.seqTurn = s ∨
      (s.phase.inLoop = true ∧ ∃ e, s.eventReady e = true ∧ s.seqTurn = (s.tookEvent e).handle e) := by
    cases he : s.nextEvent with
    | none => exact .inl (h.trans (State.seqLoop_none he))
    | some e => exact .inr ⟨hp, e, State.nextEvent_ready he, h.trans (State.seqLoop_some he)⟩
  cases hp : s.phase
  case off => exact .inl (by rw [State.seqTurn, hp])
  case init => exact .inr (.inl ⟨.inl rfl, State.seqTurn_proc (.inl hp)⟩)
  case recover => exact .inr (.inl ⟨.inr rfl, State.seqTurn_proc (.inr hp)⟩)
  all_goals
    refine (loop (by rw [hp]; rfl) (by rw [State.seqTurn, hp])).imp_right fun h => .inr ?_
    rwa [hp] at h

theorem State.seqTurn_stores (s : State) : s.seqTurn.stores = s.stores := by
  obtain h | ⟨-, h⟩ | ⟨-, e, -, h⟩ := s.seqTurn_cases
  · rw [h]
  · rw [h]
    obtain hl | ⟨-, -, -, hl⟩ := s.seqProc_leads
    · exact hl.stores_eq
    · exact hl.stores_eq
  · rw [h]
    exact ((s.tookEvent e).handle_keeps e).1

/-! HOST's turn. -/

theorem regAt_eq_cmd {off : Nat} (h : regAt off = some .cmd) : off = 0x00 := by
  simp only [regAt, ite_eq_iff, Option.some.injEq, reduceCtorEq, and_false, false_or, and_true, or_false] at h
  exact h.2

theorem regAt_eq_stage {off k : Nat} (h : regAt off = some (.stage k)) : k < 4 ∧ off = 0x10 + 4 * k := by
  simp only [regAt, ite_eq_iff, Option.some.injEq, HostReg.stage.injEq, reduceCtorEq, and_false, false_or,
    or_false] at h
  omega

theorem accessReg_eq_some {w : AccessWidth} {off : Nat} {r : HostReg} (h : accessReg w off = some r) :
    w = .word ∧ regAt off = some r := by
  unfold accessReg at h
  split at h
  · exact ⟨‹_›, h⟩
  · cases h

/-- What a write that reaches a register does: a command, a rejected word, four bytes of STAGE, or nothing. -/
theorem regWrite_cases {s t : State} {r : HostReg} {v : Word} (h : regWrite s r v = .next t) :
    (r = .cmd ∧ ∃ i, decode v = .ok i ∧ exec i s = .next t) ∨ (∃ k, r = .stage k ∧ t = s.stageWrite k v) ∨
      ∃ e, t = { s with cmdErr := e } := by
  cases r
  case cmd =>
    obtain ⟨i, hi, hw⟩ | ⟨-, hw⟩ := cmdWrite_next s v
    · exact .inl ⟨rfl, i, hi, hw.symm.trans h⟩
    · cases hw.symm.trans h
      exact .inr (.inr ⟨_, rfl⟩)
  case stage k =>
    cases h
    exact .inr (.inl ⟨k, rfl, rfl⟩)
  all_goals
    cases h
    exact .inr (.inr ⟨_, rfl⟩)

/-- Everything HOST's turn can do to the block: a command runs, a word of STAGE is written, or CMD_ERR alone may
change. -/
theorem hostTurn_cases {s t : State} (h : hostTurn s = .next t) :
    (∃ p d e, t = { s with hostProg := p, hostData := d, cmdErr := e }) ∨
    (∃ v rest i, s.hostProg = .write .word 0x00 v :: rest ∧ decode v = .ok i ∧ exec i s.hostDone = .next t) ∨
    (∃ k v rest, k < 4 ∧ s.hostProg = .write .word (0x10 + 4 * k) v :: rest ∧ t = s.hostDone.stageWrite k v) := by
  unfold hostTurn at h
  split at h
  · cases h
    exact .inl ⟨_, _, _, rfl⟩
  · rename_i op rest hp
    cases op with
    | write w off v =>
      simp only [hostAccess] at h
      split at h
      · rename_i r hr
        obtain ⟨rfl, hr⟩ := accessReg_eq_some hr
        obtain ⟨rfl, i, hi, hx⟩ | ⟨k, rfl, rfl⟩ | ⟨e, rfl⟩ := regWrite_cases h
        · cases regAt_eq_cmd hr
          exact .inr (.inl ⟨v, rest, i, hp, hi, hx⟩)
        · obtain ⟨hk, rfl⟩ := regAt_eq_stage hr
          exact .inr (.inr ⟨k, v, rest, hk, hp, rfl⟩)
        · exact .inl ⟨_, _, _, rfl⟩
      · cases h
    | read w off =>
      simp only [hostAccess] at h
      split at h
      · cases h
        exact .inl ⟨_, _, _, rfl⟩
      · cases h
    | poll off mask v =>
      simp only [hostAccess] at h
      split at h
      · split at h
        · cases h
          exact .inl ⟨_, _, _, rfl⟩
        · cases h
          exact .inl ⟨_, _, _, rfl⟩
      · cases h

/-- INIT: rejected, or from OFF, or after a teardown (R141). -/
theorem execInit_cases {s t : State} (h : exec .init s = .next t) :
    (s.phase.acceptsInit = false ∧ t = s.rejectCmd) ∨
    (s.phase = .off ∧ t = { s with cmdErr := false, phase := .init, waitAt := .initEntry }) ∨
    (s.phase.inLoop = true ∧ t = { s.teardown with cmdErr := false, phase := .init, waitAt := .initEntry }) := by
  simp only [exec, execInit] at h
  cases hp : s.phase <;> rw [hp] at h <;> cases h
  case off => exact .inr (.inl ⟨rfl, rfl⟩)
  case init => exact .inl ⟨rfl, rfl⟩
  case recover => exact .inl ⟨rfl, rfl⟩
  all_goals exact .inr (.inr ⟨rfl, rfl⟩)

theorem exec_seqOwned {i : Instr} {s t : State} (h : exec i s = .next t) : t.seqOwned = s.seqOwned := by
  cases i
  case init =>
    obtain ⟨-, rfl⟩ | ⟨-, rfl⟩ | ⟨-, rfl⟩ := execInit_cases h
    · rfl
    · rfl
    · rw [s.teardown_eq]; rfl
  case faultInject =>
    simp only [exec, execFaultInject] at h
    split at h <;> cases h <;> rfl
  all_goals
    cases h
    rfl

theorem hostTurn_seqOwned {s t : State} (h : hostTurn s = .next t) : t.seqOwned = s.seqOwned := by
  obtain ⟨p, d, e, rfl⟩ | ⟨v, rest, i, -, -, hx⟩ | ⟨k, v, rest, -, -, rfl⟩ := hostTurn_cases h
  · rfl
  · exact (exec_seqOwned hx :)
  · rfl

/-! The other agents. -/

/-- The link's turn changes the link and W. -/
theorem State.linkTurn_frame (s : State) (m : LinkMove) :
    s.linkTurn m = { s with link := (s.linkTurn m).link, wire := (s.linkTurn m).wire } := by
  cases m <;> simp only [State.linkTurn]
  case start => unfold State.linkStart; split <;> rfl
  case address ack => unfold State.linkAddress; split <;> rfl
  case byte ack => unfold State.linkByte; split <;> rfl
  case stop => unfold State.linkStop; split <;> rfl
  case error e => unfold State.linkError; split <;> rfl

/-- A TICK changes the watchdog and the time. -/
theorem State.tickTurn_frame (s : State) :
    s.tickTurn = { s with
      wdtArmed := s.tickTurn.wdtArmed, wdtCnt := s.tickTurn.wdtCnt, toPend := s.tickTurn.toPend
      now := s.now + 1 } := by
  unfold State.tickTurn State.wdtTick
  split
  · split <;> rfl
  · rfl

/-- No turn but SEQ's and the power-on reset's writes what SEQ owns. -/
theorem step_seqOwned {s t : State} (h : step s = .next t) (hseq : s.turn ≠ .seq) (hpow : s.turn ≠ .powerOn) :
    t.seqOwned = s.seqOwned := by
  obtain ⟨l, n, hk⟩ := s.exists_turnTaken
  obtain ⟨-, h⟩ | ⟨ht, -⟩ | ⟨-, h⟩ | ⟨-, rfl⟩ | ⟨m, -, rfl⟩ | ⟨c, d, -, rfl⟩ | ⟨ht, -⟩ := step_next h
  · rw [hostTurn_seqOwned h, hk]; rfl
  · exact absurd ht hseq
  · obtain ⟨-, -, rfl⟩ | ⟨-, rfl⟩ := dmaTurn_next h
    · rw [hk]; rfl
    · rw [hk]; rfl
  · rw [State.tickTurn_frame, hk]; rfl
  · rw [State.linkTurn_frame, hk]; rfl
  · rw [hk]; rfl
  · exact absurd ht hpow

/-- No turn but HOST's and the power-on reset's writes HOST's stores. -/
theorem step_stores {s t : State} (h : step s = .next t) (hhost : s.turn ≠ .host) (hpow : s.turn ≠ .powerOn) :
    t.stores = s.stores := by
  obtain ⟨l, n, hk⟩ := s.exists_turnTaken
  obtain ⟨ht, -⟩ | ⟨-, rfl⟩ | ⟨-, h⟩ | ⟨-, rfl⟩ | ⟨m, -, rfl⟩ | ⟨c, d, -, rfl⟩ | ⟨ht, -⟩ := step_next h
  · exact absurd ht hhost
  · rw [State.seqTurn_stores, hk]; rfl
  · obtain ⟨-, -, rfl⟩ | ⟨-, rfl⟩ := dmaTurn_next h
    · rw [hk]; rfl
    · rw [hk]; rfl
  · rw [State.tickTurn_frame, hk]; rfl
  · rw [State.linkTurn_frame, hk]; rfl
  · rw [hk]; rfl
  · exact absurd ht hpow

/-! O53. -/

/-- A SEQ turn changes DEV_ADDR only at the end of a completed probe (R195). -/
theorem State.seqTurn_devAddr (s : State) :
    s.seqTurn.devAddr = s.devAddr ∨
      ((s.phase = .init ∨ s.phase = .recover) ∧ s.istep = .probe ∧ s.waitAt = .txStop ∧
        s.seqTurn.devAddr = s.probeA) := by
  obtain h | ⟨hp, h⟩ | ⟨-, e, -, h⟩ := s.seqTurn_cases
  · exact .inl (by rw [h])
  · rw [h]
    obtain hl | ⟨hi, hw, -, hl⟩ := s.seqProc_leads
    · exact .inl hl.devAddr_eq
    · exact .inr ⟨hp, hi, hw, hl.devAddr_eq⟩
  · exact .inl (by rw [h, ((s.tookEvent e).handle_keeps e).2]; rfl)

/-- A completed probe is an INIT's, with no device yet (R28): the fault handler never probes. -/
theorem Inv.probe_done {s : State} (h : Inv s) (hp : s.phase = .init ∨ s.phase = .recover) (hi : s.istep = .probe)
    (hw : s.waitAt = .txStop) : s.phase = .init ∧ s.devAddr = 0 := by
  have hd : s.inDiscovery = true := by simp [State.inDiscovery, hi, hw, WaitPoint.inTx]
  have hb : s.inBringUp = false := by simp [State.inBringUp, hi]
  obtain hp | hp := hp
  · exact ⟨hp, h.discoveryDev hp hd⟩
  · have := h.recoverAt hp
    simp [hw, hb] at this

/-- Settles O53: DEV_ADDR is SEQ's own, and SEQ writes it only at the end of a completed probe, where it is still 0. -/
theorem devAddrImmutable : Obligations.DevAddrImmutable := by
  refine ⟨⟨rfl, fun _ => rfl⟩, fun s t hinv h hpow => ?_⟩
  by_cases hseq : s.turn = .seq
  · have ht : t = s.turnTaken.seqTurn := by
      simpa [step, hseq, runTurn] using h.symm
    obtain ⟨l, n, hk⟩ := s.exists_turnTaken
    have hd := s.turnTaken.seqTurn_devAddr
    rw [← ht, hk] at hd
    obtain hd | ⟨hp, hi, hw, hd⟩ := hd
    · exact ⟨fun _ => hd, fun hne => absurd hd hne⟩
    · obtain ⟨hp, h0⟩ := hinv.probe_done hp hi hw
      exact ⟨fun hne => absurd h0 hne, fun _ => ⟨hseq, hp, hi, hd⟩⟩
  · have hd : t.devAddr = s.devAddr := congrArg (fun p => p.2.2.1) (step_seqOwned h hseq hpow)
    exact ⟨fun _ => hd, fun hne => absurd hd hne⟩

end Sys2Proof.Machine
end

section
/-! The invariants of R53 are kept by every step (O58). Outside the loop Inv is `Resting` (stores in form, loop machinery
off) at a place where the procedure may hold (`Placed`); inside it, Inv is `Looping`. Each stretch of the procedure leads
to one of the two, and each handler from the second to one of them. -/

namespace Sys2Proof.Machine

/-- The stores have their canonical form and SYNC's count is below 2 while it counts (R53 g). -/
def State.StoresWf (s : State) : Prop :=
  Memory.wf textBg Config.textSize s.text = true ∧ Memory.wf txbufBg Config.txbufSize s.txbuf = true ∧
    Memory.wf stageBg Config.stageSize s.stage = true ∧ (s.syncBusy = true → s.syncSeen.toNat < 2)

/-- Outside the loop: no channel, watchdog, pending event or notification. -/
def State.Resting (s : State) : Prop :=
  s.StoresWf ∧ s.chEn = false ∧ s.wdtArmed = false ∧ s.toPend = false ∧ s.tcPend = false ∧ s.injPend = false ∧
    s.evtEn = false ∧ s.errEn = false

/-- The waits of INIT up to the wedge check (R181 to R185). -/
def WaitPoint.inWedge : WaitPoint → Bool
  | .initEntry | .wedgeSettle | .pulseDataLow | .pulseClockLow | .pulseClockHigh | .pulseDataHigh => true
  | .idle | .floatSettle | .recoverEntry | .bringDelay | .txSb | .txAddr | .txTxe | .txBtf | .txStop => false

/-- Where SEQ may be outside the loop. -/
inductive State.Placed (s : State) : Prop where
  | off (hp : s.phase = .off)
  | wedge (hp : s.phase = .init) (hw : s.waitAt.inWedge = true)
  | discovery (hp : s.phase = .init) (hw : s.inDiscovery = true) (hd : s.devAddr = 0)
  | bringUp (hp : s.phase = .init ∨ s.phase = .recover) (hw : s.inBringUp = true) (hd : s.devAddr ≠ 0)
  | fault (hp : s.phase = .recover) (hw : s.waitAt = .recoverEntry) (hd : s.devAddr ≠ 0)

/-- What Inv asks in a loop phase. -/
structure State.Looping (s : State) : Prop where
  stores : s.StoresWf
  phase : s.phase.inLoop = true
  device : s.devAddr ≠ 0
  channel : s.chEn = true → s.phase.transferring = true ∧ s.chPtr.toNat + s.chCnt.toNat = s.payloadLen
  watchdog : s.wdtArmed = true → s.phase.transferring = true ∧ (0 < s.params.tWdt → s.wdtCnt < s.params.tWdt)
  timeout : s.toPend = true → s.phase.transferring = true
  complete : s.tcPend = true → s.phase = .xfer
  reopen : s.phase = .reopenBtf ∨ s.phase = .reopenStop → s.mode = .oled

theorem Phase.inLoop_ne {p : Phase} (h : p.inLoop = true) : p ≠ .off ∧ p ≠ .init ∧ p ≠ .recover := by
  cases p <;> simp_all [Phase.inLoop]

/-! Inv in and outside the loop. -/

theorem Inv.storesWf {s : State} (h : Inv s) : s.StoresWf := ⟨h.textWf, h.txbufWf, h.stageWf, h.syncSeenBelow⟩

theorem Inv.resting {s : State} (h : Inv s) (hp : s.phase.inLoop = false) : s.Resting := by
  have ht : ¬ s.phase.transferring = true := fun ht => by simp [Phase.transferring_inLoop ht] at hp
  have hx : ¬ s.phase = .xfer := fun hx => by simp [hx, Phase.inLoop] at hp
  have hl : ¬ s.phase.inLoop = true := by simp [hp]
  exact ⟨h.storesWf, Bool.eq_false_iff.mpr (ht ∘ h.channelPhase), Bool.eq_false_iff.mpr (ht ∘ h.watchdogPhase),
    Bool.eq_false_iff.mpr (ht ∘ h.timeoutPhase), Bool.eq_false_iff.mpr (hx ∘ h.completePhase),
    Bool.eq_false_iff.mpr (hl ∘ h.injectPhase), Bool.eq_false_iff.mpr (hl ∘ h.eventPhase),
    Bool.eq_false_iff.mpr (hl ∘ h.errorPhase)⟩

/-- A synchronous transfer is either a probe's or a bring-up's, and neither is the floating check. -/
theorem State.inDiscovery_not_inBringUp {s : State} (h : s.inDiscovery = true) : s.inBringUp = false := by
  simp only [State.inDiscovery, Bool.or_eq_true, Bool.and_eq_true, decide_eq_true_eq] at h
  obtain h | ⟨-, h⟩ := h
  · simp [State.inBringUp, h, WaitPoint.inTx]
  · simp [State.inBringUp, h]

theorem State.inWedge_elsewhere {s : State} (h : s.waitAt.inWedge = true) :
    s.inBringUp = false ∧ s.inDiscovery = false ∧ s.waitAt ≠ .recoverEntry ∧ s.waitAt ≠ .bringDelay := by
  cases hw : s.waitAt <;> simp_all [WaitPoint.inWedge, State.inBringUp, State.inDiscovery, WaitPoint.inTx]

theorem State.inBringUp_waitAt {s : State} (h : s.inBringUp = true) : s.istep ≠ .probe ∧ s.waitAt ≠ .recoverEntry := by
  simp only [State.inBringUp, Bool.and_eq_true, decide_eq_true_eq] at h
  refine ⟨h.2, fun hw => ?_⟩
  simp [hw, WaitPoint.inTx] at h

theorem State.inDiscovery_waitAt {s : State} (h : s.inDiscovery = true) :
    s.waitAt ≠ .recoverEntry ∧ s.waitAt ≠ .bringDelay := by
  constructor <;> intro hw <;> simp [State.inDiscovery, hw, WaitPoint.inTx] at h

theorem State.inBringUp_of_inTx {s : State} (hw : s.waitAt.inTx = true) (hi : s.istep ≠ .probe) :
    s.inBringUp = true := by
  simp [State.inBringUp, hw, hi]

theorem State.inBringUp_of_delay {s : State} (hw : s.waitAt = .bringDelay) (hi : s.istep ≠ .probe) :
    s.inBringUp = true := by
  simp [State.inBringUp, hw, hi]

theorem State.inDiscovery_of_float {s : State} (hw : s.waitAt = .floatSettle) : s.inDiscovery = true := by
  simp [State.inDiscovery, hw]

theorem State.inDiscovery_of_probe {s : State} (hw : s.waitAt.inTx = true) (hi : s.istep = .probe) :
    s.inDiscovery = true := by
  simp [State.inDiscovery, hw, hi]

/-- The clauses of Inv about the place of the procedure. -/
theorem State.Placed.clauses {s : State} (h : s.Placed) :
    s.phase.inLoop = false ∧ (s.phase.running = true → s.devAddr ≠ 0) ∧
    (s.phase = .init → s.inBringUp = true → s.devAddr ≠ 0) ∧
    (s.phase = .init → s.inDiscovery = true → s.devAddr = 0) ∧
    (s.phase = .init → s.waitAt ≠ .recoverEntry) ∧
    (s.phase = .init → s.waitAt = .bringDelay → s.istep ≠ .probe) ∧
    (s.phase = .recover → s.waitAt = .recoverEntry ∨ s.inBringUp = true) := by
  cases h with
  | off hp => simp [hp, Phase.inLoop, Phase.running]
  | wedge hp hw =>
    obtain ⟨hbring, hdisc, hentry, hdelay⟩ := State.inWedge_elsewhere hw
    simp [hp, hbring, hdisc, hentry, hdelay, Phase.inLoop, Phase.running]
  | discovery hp hw hd =>
    obtain ⟨hentry, hdelay⟩ := State.inDiscovery_waitAt hw
    simp [hp, State.inDiscovery_not_inBringUp hw, hd, hentry, hdelay, Phase.inLoop, Phase.running]
  | bringUp hp hw hd =>
    obtain ⟨hi, hentry⟩ := State.inBringUp_waitAt hw
    have hdisc : ¬ s.inDiscovery = true := fun hdisc => by
      simp [State.inDiscovery_not_inBringUp hdisc] at hw
    refine ⟨?_, fun _ => hd, fun _ _ => hd, fun _ h => absurd h hdisc, fun _ => hentry, fun _ _ => hi, fun _ => .inr hw⟩
    obtain hp | hp := hp <;> rw [hp] <;> rfl
  | fault hp hw hd =>
    exact ⟨by rw [hp]; rfl, fun _ => hd, by simp [hp], by simp [hp], by simp [hp], by simp [hp], fun _ => .inl hw⟩

theorem State.Resting.inv {s : State} (hr : s.Resting) (hpl : s.Placed) : Inv s := by
  obtain ⟨⟨htext, htxbuf, hstage, hsync⟩, hch, hwd, hto, htc, hinj, hev, her⟩ := hr
  obtain ⟨hloop, hrun, hbring, hdisc, hentry, hdelay, hrec⟩ := hpl.clauses
  exact {
    textWf := htext, txbufWf := htxbuf, stageWf := hstage, syncSeenBelow := hsync
    runningDev := hrun, bringDev := hbring, discoveryDev := hdisc
    initAt := hentry, delayAt := hdelay, recoverAt := hrec
    reopenMode := fun hp => by rcases hp with hp | hp <;> simp [hp, Phase.inLoop] at hloop
    channelPhase := by simp [hch]
    channelSpan := by simp [hch]
    watchdogPhase := by simp [hwd]
    watchdogBelow := by simp [hwd]
    timeoutPhase := by simp [hto]
    completePhase := by simp [htc]
    injectPhase := by simp [hinj]
    eventPhase := by simp [hev]
    errorPhase := by simp [her] }

theorem Inv.looping {s : State} (h : Inv s) (hp : s.phase.inLoop = true) : s.Looping where
  stores := h.storesWf
  phase := hp
  device := h.runningDev (Phase.inLoop_running hp)
  channel := fun hc => ⟨h.channelPhase hc, h.channelSpan hc⟩
  watchdog := fun hw => ⟨h.watchdogPhase hw, h.watchdogBelow hw⟩
  timeout := h.timeoutPhase
  complete := h.completePhase
  reopen := h.reopenMode

theorem State.Looping.inv {s : State} (h : s.Looping) : Inv s := by
  obtain ⟨htext, htxbuf, hstage, hsync⟩ := h.stores
  obtain ⟨-, hni, hnr⟩ := Phase.inLoop_ne h.phase
  exact {
    textWf := htext, txbufWf := htxbuf, stageWf := hstage, syncSeenBelow := hsync
    runningDev := fun _ => h.device
    bringDev := fun hp => absurd hp hni
    discoveryDev := fun hp => absurd hp hni
    initAt := fun hp => absurd hp hni
    delayAt := fun hp => absurd hp hni
    recoverAt := fun hp => absurd hp hnr
    reopenMode := h.reopen
    channelPhase := fun hc => (h.channel hc).1
    channelSpan := fun hc => (h.channel hc).2
    watchdogPhase := fun hw => (h.watchdog hw).1
    watchdogBelow := fun hw => (h.watchdog hw).2
    timeoutPhase := h.timeout
    completePhase := h.complete
    injectPhase := fun _ => h.phase
    eventPhase := fun _ => h.phase
    errorPhase := fun _ => h.phase }

/-! The shared operations. -/

theorem State.StoresWf.loadTx {s : State} (h : s.StoresWf) {bs : List Byte} (hb : bs.length ≤ 256) :
    (s.loadTx bs).StoresWf := by
  obtain ⟨htext, htxbuf, hstage, hsync⟩ := h
  exact ⟨htext, Memory.wf_fill _ _ _ _ hb htxbuf, hstage, hsync⟩

theorem State.StoresWf.refreshTick {s : State} (h : s.StoresWf) : s.refreshTick.StoresWf := by
  obtain ⟨htext, htxbuf, hstage, hsync⟩ := h
  exact ⟨htext, htxbuf, hstage, syncBelow_tick _ _ hsync⟩

theorem State.StoresWf.lcdSnapshot {s : State} (h : s.StoresWf) : s.lcdSnapshot.StoresWf :=
  (h.loadTx (by rw [lcdPayload_length]; decide)).refreshTick

theorem State.StoresWf.oledRow {s : State} (h : s.StoresWf) (r : Nat) : (s.oledRow r).StoresWf :=
  h.loadTx (by rw [oledRowPayload_length]; decide)

theorem State.StoresWf.oledPreamble {s : State} (h : s.StoresWf) : s.oledPreamble.StoresWf :=
  h.loadTx (by rw [preamblePayload_length]; decide)

theorem State.payloadLen_lt (s : State) : s.payloadLen < 512 := by
  unfold State.payloadLen
  split <;> decide

/-- DmaStart with the payload's length (R283) leaves a good loop state, whatever the channel and the watchdog held. -/
theorem State.dmaStart_looping {u : State} {n : Nat} (hst : u.StoresWf) (hp : u.phase.transferring = true)
    (hd : u.devAddr ≠ 0) (hn : n = u.payloadLen) : (u.dmaStart n).Looping where
  stores := hst
  phase := Phase.transferring_inLoop hp
  device := hd
  channel := fun _ => ⟨hp, by
    have := u.payloadLen_lt
    show (0#9).toNat + (BitVec.ofNat 9 n).toNat = u.payloadLen
    rw [BitVec.toNat_ofNat, hn]
    simp
    omega⟩
  watchdog := fun _ => ⟨hp, id⟩
  timeout := nofun
  complete := nofun
  reopen := fun h => by rcases h with h | h <;> simp_all [Phase.transferring]

/-! The stretches of the procedure, each from a resting state. -/

/-- `Resting` speaks of nothing the procedure itself writes. -/
theorem State.Resting.of_beside {s t : State} (hr : s.Resting) (h : t.besideProc = s.besideProc) : t.Resting := by
  have hb : s.besideProc.Resting := hr
  rw [← h] at hb
  exact hb

theorem State.Resting.inv_of_beside {s t : State} (hr : s.Resting) (h : t.besideProc = s.besideProc) (hpl : t.Placed) :
    Inv t :=
  (hr.of_beside h).inv hpl

theorem State.Resting.loopStart_inv {s : State} (hr : s.Resting) (hd : s.devAddr ≠ 0) : Inv s.loopStart := by
  obtain ⟨hst, -⟩ := hr
  by_cases hm : s.mode = .oled
  · have hlen : State.payloadLen { s with oledCyc := .row0 } = preambleLen := by
      have hm' : modeOf s.params s.devAddr = .oled := hm
      simp [State.payloadLen, State.mode, hm']
    rw [s.loopStart_oled hm]
    exact (State.dmaStart_looping (n := preambleLen) (u := { s with
      txbuf := Memory.fill txbufBg s.txbuf (preamblePayload s.bl), oledCyc := .row0
      link := { s.link with startReq := true }, evtEn := true, errEn := true
      phase := .waitSb, istep := .loopStart, waitAt := .idle }) hst.oledPreamble rfl hd hlen.symm).inv
  · have hlen : s.payloadLen = lcdLen := by
      unfold State.payloadLen
      split <;> simp_all
    rw [s.loopStart_lcd hm]
    exact (State.dmaStart_looping (n := lcdLen) (u := { s with
      txbuf := Memory.fill txbufBg s.txbuf (lcdPayload s.params s.bl s.text)
      refreshCount := s.refreshCount + 1
      syncSeen := seenAfterTick s.syncBusy s.syncSeen, syncBusy := busyAfterTick s.syncBusy s.syncSeen
      link := { s.link with startReq := true }, evtEn := true, errEn := true
      phase := .waitSb, istep := .loopStart, waitAt := .idle }) hst.lcdSnapshot rfl hd hlen.symm).inv

theorem State.Resting.failInit_inv {s : State} (hr : s.Resting) (c : FailCause) : Inv (s.failInit c) :=
  hr.inv_of_beside (s.failInit_beside c) (.off rfl)

theorem State.Resting.bringRun_inv {s : State} (hr : s.Resting) (hp : s.phase = .init ∨ s.phase = .recover)
    (hd : s.devAddr ≠ 0) (hi : s.istep ≠ .probe) : Inv s.bringRun := by
  have h := s.bringRun_bringsUp
  unfold State.BringsUp at h
  split at h
  · rw [h]
    exact hr.inv_of_beside rfl (.bringUp hp (State.inBringUp_of_inTx rfl hi) hd)
  · rw [h]
    exact hr.inv_of_beside rfl (.bringUp hp (State.inBringUp_of_delay rfl hi) hd)
  · rw [h]
    exact hr.loopStart_inv hd

theorem State.Resting.probeNext_inv {s : State} (hr : s.Resting) (hp : s.phase = .init) (hd : s.devAddr = 0)
    (hi : s.istep = .probe) : Inv s.probeNext := by
  refine hr.inv_of_beside s.probeNext_beside ?_
  unfold State.probeNext
  split
  · exact .off rfl
  · exact .discovery hp (State.inDiscovery_of_probe rfl hi) hd

theorem State.Resting.afterWedge_inv {s : State} (hr : s.Resting) (hp : s.phase = .init) : Inv s.afterWedge := by
  by_cases hd : s.devAddr = 0
  · rw [s.afterWedge_first hd]
    exact hr.inv_of_beside rfl (.discovery hp (State.inDiscovery_of_float rfl) hd)
  · rw [s.afterWedge_rerun hd]
    exact State.Resting.bringRun_inv hr (.inl hp) hd (by simp)

theorem State.Resting.wedgeSample_inv {s : State} (hr : s.Resting) (hp : s.phase = .init) : Inv s.wedgeSample := by
  unfold State.wedgeSample
  split
  · exact hr.inv_of_beside rfl (.wedge hp rfl)
  · exact hr.afterWedge_inv hp

theorem State.Resting.wedgeRecheck_inv {s : State} (hr : s.Resting) (hp : s.phase = .init) : Inv s.wedgeRecheck := by
  have ht (k : Nat) (b : Bool) : State.Resting { s with tries := k, wedgeStuck := b } := hr.of_beside rfl
  simp only [State.wedgeRecheck]
  split
  · split
    · exact (ht (s.tries + 1) s.wedgeStuck).inv_of_beside rfl (.wedge hp rfl)
    · exact (ht _ _).afterWedge_inv hp
  · exact (ht _ _).afterWedge_inv hp

theorem State.Resting.floatSample_inv {s : State} (hr : s.Resting) (hp : s.phase = .init) (hd : s.devAddr = 0) :
    Inv s.floatSample := by
  unfold State.floatSample
  split
  · exact (hr.of_beside (by cases s; rfl)).probeNext_inv hp hd rfl
  · exact hr.failInit_inv _

/-- A synchronous transfer is a probe of an INIT with no device, or a bring-up's with one. -/
def State.Transfers (s : State) : Prop :=
  (s.phase = .init ∧ s.devAddr = 0 ∧ s.istep = .probe) ∨
    ((s.phase = .init ∨ s.phase = .recover) ∧ s.devAddr ≠ 0 ∧ s.istep ≠ .probe)

theorem State.Transfers.placed {s : State} (h : s.Transfers) (hw : s.waitAt.inTx = true) : s.Placed := by
  obtain ⟨hp, hd, hi⟩ | ⟨hp, hd, hi⟩ := h
  · exact .discovery hp (State.inDiscovery_of_probe hw hi) hd
  · exact .bringUp hp (State.inBringUp_of_inTx hw hi) hd

theorem State.Resting.txDone_inv {s : State} (hr : s.Resting) (h : s.Transfers) (r : WaitResult) :
    Inv (s.txDone r) := by
  unfold State.txDone
  obtain ⟨hp, hd, hi⟩ | ⟨hp, hd, hi⟩ := h
  · rw [if_pos hi]
    cases r
    case ok =>
      dsimp only
      split
      · exact hr.failInit_inv _
      · rename_i ha
        rw [s.classify_eq ha]
        exact State.Resting.bringRun_inv hr (.inl hp) ha (by simp)
    case err => exact hr.probeNext_inv hp hd hi
    case timeout => exact State.Resting.failInit_inv (s := { s with busDead := true }) hr _
  · rw [if_neg hi]
    cases r
    case ok => exact State.Resting.bringRun_inv hr hp hd hi
    all_goals exact hr.loopStart_inv hd

theorem State.Resting.txWait_inv {s : State} {c : Bool} {go : State → State} (hr : s.Resting) (h : s.Transfers)
    (hs : Inv s) (hgo : Inv (go s)) : Inv (s.txWait c go) := by
  unfold State.txWait
  split
  · exact hs
  · exact hgo
  · rw [State.errAbort_eq]
    exact (hr.of_beside s.abortTx_beside).txDone_inv h _
  · exact (hr.of_beside s.abortTx_beside).txDone_inv h _

theorem State.Resting.txGotAddr_inv {s : State} (hr : s.Resting) (h : s.Transfers) : Inv s.txGotAddr := by
  refine hr.inv_of_beside s.txGotAddr_beside ?_
  unfold State.txGotAddr
  cases s
  split <;> exact State.Transfers.placed h rfl

theorem State.Resting.txGotTxe_inv {s : State} (hr : s.Resting) (h : s.Transfers) : Inv s.txGotTxe := by
  refine hr.inv_of_beside s.txGotTxe_beside ?_
  unfold State.txGotTxe
  split
  · exact State.Transfers.placed h rfl
  · dsimp only
    split <;> exact State.Transfers.placed h rfl

/-- Where Inv lets a procedure hold. -/
theorem Inv.init_of_outside_bringUp {s : State} (h : Inv s) (hp : s.phase = .init ∨ s.phase = .recover)
    (hw : s.waitAt ≠ .recoverEntry) (hb : s.inBringUp = false) : s.phase = .init :=
  hp.resolve_right fun hp => by
    obtain hr | hr := h.recoverAt hp
    · exact hw hr
    · simp [hb] at hr

theorem Inv.transfers {s : State} (h : Inv s) (hp : s.phase = .init ∨ s.phase = .recover) (hw : s.waitAt.inTx = true) :
    s.Transfers := by
  by_cases hi : s.istep = .probe
  · have hre : s.waitAt ≠ .recoverEntry := fun hre => by simp [hre, WaitPoint.inTx] at hw
    have hp := h.init_of_outside_bringUp hp hre (by simp [State.inBringUp, hi])
    exact .inl ⟨hp, h.discoveryDev hp (State.inDiscovery_of_probe hw hi), hi⟩
  · refine .inr ⟨hp, ?_, hi⟩
    obtain hp | hp := hp
    · exact h.bringDev hp (State.inBringUp_of_inTx hw hi)
    · exact h.runningDev (by rw [hp]; rfl)

theorem Inv.delay {s t : State} (h : Inv s) (ht : Inv t) : Inv (if s.delayOver then t else s) := by
  split
  · exact ht
  · exact h

/-- A SEQ step inside a procedure keeps Inv, stretch by stretch. -/
theorem Inv.seqProc {s : State} (h : Inv s) (hp : s.phase = .init ∨ s.phase = .recover) : Inv s.seqProc := by
  have hr : s.Resting := h.resting (by obtain hp | hp := hp <;> rw [hp] <;> rfl)
  have wedge (hw : s.waitAt.inWedge = true) : s.phase = .init := by
    obtain ⟨hb, -, hre, -⟩ := State.inWedge_elsewhere hw
    exact h.init_of_outside_bringUp hp hre hb
  cases hw : s.waitAt
  case idle => rwa [State.seqProc, hw]
  case initEntry =>
    rw [State.seqProc_initEntry hw]
    exact hr.inv_of_beside (by cases s; rfl) (.wedge (wedge (by rw [hw]; rfl)) rfl)
  case wedgeSettle =>
    rw [State.seqProc_wedgeSettle hw]
    exact h.delay (hr.wedgeSample_inv (wedge (by rw [hw]; rfl)))
  case pulseDataLow =>
    rw [State.seqProc_pulseDataLow hw]
    exact h.delay (hr.inv_of_beside rfl (.wedge (wedge (by rw [hw]; rfl)) rfl))
  case pulseClockLow =>
    rw [State.seqProc_pulseClockLow hw]
    exact h.delay (hr.inv_of_beside rfl (.wedge (wedge (by rw [hw]; rfl)) rfl))
  case pulseClockHigh =>
    rw [State.seqProc_pulseClockHigh hw]
    exact h.delay (hr.inv_of_beside rfl (.wedge (wedge (by rw [hw]; rfl)) rfl))
  case pulseDataHigh =>
    rw [State.seqProc_pulseDataHigh hw]
    exact h.delay (hr.wedgeRecheck_inv (wedge (by rw [hw]; rfl)))
  case floatSettle =>
    rw [State.seqProc_floatSettle hw]
    have hp := h.init_of_outside_bringUp hp (by simp [hw]) (by simp [State.inBringUp, hw, WaitPoint.inTx])
    exact h.delay (hr.floatSample_inv hp (h.discoveryDev hp (State.inDiscovery_of_float hw)))
  case recoverEntry =>
    rw [State.seqProc_recoverEntry hw]
    have hp : s.phase = .recover := hp.resolve_left fun hp => h.initAt hp hw
    exact State.Resting.bringRun_inv hr (.inr hp) (h.runningDev (by rw [hp]; rfl)) (by simp)
  case bringDelay =>
    rw [State.seqProc_bringDelay hw]
    refine h.delay ?_
    obtain hp | hp := hp
    · have hi := h.delayAt hp hw
      exact State.Resting.bringRun_inv hr (.inl hp) (h.bringDev hp (State.inBringUp_of_delay hw hi)) hi
    · have hb := (h.recoverAt hp).resolve_left (by simp [hw])
      exact State.Resting.bringRun_inv hr (.inr hp) (h.runningDev (by rw [hp]; rfl)) (State.inBringUp_waitAt hb).1
  case txSb =>
    rw [State.seqProc_txSb hw]
    have ht := h.transfers hp (by rw [hw]; rfl)
    exact hr.txWait_inv ht h (hr.inv_of_beside rfl (State.Transfers.placed ht rfl))
  case txAddr =>
    rw [State.seqProc_txAddr hw]
    have ht := h.transfers hp (by rw [hw]; rfl)
    exact hr.txWait_inv ht h (hr.txGotAddr_inv ht)
  case txTxe =>
    rw [State.seqProc_txTxe hw]
    have ht := h.transfers hp (by rw [hw]; rfl)
    exact hr.txWait_inv ht h (hr.txGotTxe_inv ht)
  case txBtf =>
    rw [State.seqProc_txBtf hw]
    have ht := h.transfers hp (by rw [hw]; rfl)
    exact hr.txWait_inv ht h (hr.inv_of_beside rfl (State.Transfers.placed ht rfl))
  case txStop =>
    rw [State.seqProc_txStop hw]
    have ht := h.transfers hp (by rw [hw]; rfl)
    exact hr.txWait_inv ht h (hr.txDone_inv ht _)

/-! The handlers of the loop. -/

/-- Taking a fault leaves a resting state at the handler's entry (R330). -/
theorem State.Looping.takeFault_inv {s : State} (h : s.Looping) (c : ErrCause) : Inv (s.takeFault c) := by
  rw [s.takeFault_eq c]
  exact State.Resting.inv ⟨h.stores, rfl, rfl, rfl, rfl, rfl, rfl, rfl⟩ (.fault rfl rfl h.device)

theorem State.Looping.onSb {s : State} (h : s.Looping) (hp : s.phase = .waitSb) : s.onSb.Looping where
  stores := h.stores
  phase := rfl
  device := h.device
  channel := fun hc => ⟨rfl, (h.channel hc).2⟩
  watchdog := fun hw => ⟨rfl, (h.watchdog hw).2⟩
  timeout := fun _ => rfl
  complete := fun hc => absurd (h.complete hc) (by simp [hp])
  reopen := by simp [State.onSb]

theorem State.Looping.onAddr {s : State} (h : s.Looping) : s.onAddr.Looping where
  stores := h.stores
  phase := rfl
  device := h.device
  channel := fun hc => ⟨rfl, (h.channel hc).2⟩
  watchdog := fun hw => ⟨rfl, (h.watchdog hw).2⟩
  timeout := fun _ => rfl
  complete := fun _ => rfl
  reopen := by simp [State.onAddr]

/-- Between two refreshes in a reopen phase the channel and the watchdog are off. -/
theorem State.reopen_looping {s : State} (hst : s.StoresWf) (hd : s.devAddr ≠ 0)
    (hp : s.phase = .reopenBtf ∨ s.phase = .reopenStop) (hm : s.mode = .oled) (hc : s.chEn = false)
    (hw : s.wdtArmed = false) (ht : s.toPend = false) (htc : s.tcPend = false) : s.Looping where
  stores := hst
  phase := by obtain hp | hp := hp <;> rw [hp] <;> rfl
  device := hd
  channel := by simp [hc]
  watchdog := by simp [hw]
  timeout := by simp [ht]
  complete := by simp [htc]
  reopen := fun _ => hm

theorem State.Looping.tookEvent {s : State} (h : s.Looping) (e : Event) : (s.tookEvent e).Looping :=
  { h with }

/-- TC comes in XFER. The cycle goes on with the next row, or with the snapshot, or to the reopen (R288 to R292). -/
theorem State.Looping.onTc {s : State} (h : s.Looping) (hp : s.phase = .xfer) : s.onTc.Looping := by
  have ht : s.phase.transferring = true := by rw [hp]; rfl
  have hm : s.mode = modeOf s.params s.devAddr := rfl
  unfold State.onTc
  split
  · exact absurd ((State.mode_eq_none s).mp ‹_›) h.device
  · rw [State.lcdSnapshot_eq]
    refine State.dmaStart_looping (State.StoresWf.lcdSnapshot (s := s.tcCommon) h.stores) ht h.device ?_
    simp_all [State.payloadLen, State.mode, State.tcCommon]
  · refine State.dmaStart_looping (State.StoresWf.oledRow (s := s.tcCommon) h.stores 0) ht h.device ?_
    simp_all [State.payloadLen, State.mode, State.tcCommon, State.oledRow]
  · refine State.dmaStart_looping (State.StoresWf.oledRow (s := s.tcCommon) h.stores 1) ht h.device ?_
    simp_all [State.payloadLen, State.mode, State.tcCommon, State.oledRow]
  · exact State.reopen_looping h.stores h.device (.inl rfl) ‹_› rfl rfl rfl rfl

theorem State.Looping.onBtf {s : State} (h : s.Looping) (hp : s.phase = .reopenBtf) : s.onBtf.Looping := by
  have ht : ¬ s.phase.transferring = true := by simp [hp, Phase.transferring]
  exact State.reopen_looping h.stores h.device (.inr rfl) (h.reopen (.inl hp))
    (Bool.eq_false_iff.mpr fun hc => ht (h.channel hc).1) (Bool.eq_false_iff.mpr fun hw => ht (h.watchdog hw).1)
    (Bool.eq_false_iff.mpr fun hto => ht (h.timeout hto))
    (Bool.eq_false_iff.mpr fun hc => by simpa [hp] using h.complete hc)

theorem State.Looping.onStopDone {s : State} (h : s.Looping) (hp : s.phase = .reopenStop) : s.onStopDone.Looping := by
  have hm : modeOf s.params s.devAddr = .oled := h.reopen (.inr hp)
  refine State.dmaStart_looping (State.StoresWf.oledPreamble (s := { s.refreshTick with oledCyc := .row0 })
    h.stores.refreshTick) rfl h.device ?_
  simp [State.payloadLen, State.mode, State.oledPreamble, hm]

/-- Every handler keeps Inv where its event is pending and enabled (R320). -/
theorem State.Looping.handle_inv {s : State} (h : s.Looping) {e : Event} (he : s.eventReady e = true) :
    Inv (s.handle e) := by
  cases e <;> simp only [State.eventReady, Bool.and_eq_true, decide_eq_true_eq] at he
  case sb =>
    obtain ⟨⟨-, hp⟩, -⟩ := he
    exact (h.onSb hp).inv
  case addr => exact h.onAddr.inv
  case tc => exact (h.onTc (h.complete he)).inv
  case btf => exact (h.onBtf he.1).inv
  case stopDone => exact (h.onStopDone he.1).inv
  all_goals exact h.takeFault_inv _

theorem Inv.seqTurn {s : State} (h : Inv s) : Inv s.seqTurn := by
  obtain ht | ⟨hp, ht⟩ | ⟨hp, e, he, ht⟩ := s.seqTurn_cases
  · rwa [ht]
  · rw [ht]
    exact h.seqProc hp
  · rw [ht]
    exact ((h.looping hp).tookEvent e).handle_inv (by cases e <;> exact he)

/-! The other agents. -/

/-- A DMA step moves the pointer and the count by one; the last byte raises TC, in XFER (R280, R281). -/
theorem Inv.dmaMove {s : State} (h : Inv s) (hr : s.dmaReady = true) (hptr : s.chPtr.toNat < Config.txbufSize) :
    Inv s.dmaMove := by
  simp only [State.dmaReady, Bool.and_eq_true, decide_eq_true_eq] at hr
  obtain ⟨⟨⟨hen, hcnt⟩, hp⟩, -⟩ := hr
  have hspan := h.channelSpan hen
  exact { h with
    completePhase := fun _ => hp
    channelSpan := fun _ => by
      have hc : s.chCnt.toNat ≠ 0 := fun h0 => hcnt (BitVec.eq_of_toNat_eq h0)
      have hlt := s.chCnt.isLt
      simp only [Config.txbufSize] at hptr
      show (s.chPtr + 1).toNat + (s.chCnt - 1).toNat = s.payloadLen
      rw [← hspan, BitVec.toNat_add, BitVec.toNat_sub]
      simp
      omega }

theorem Inv.tickTurn {s : State} (h : Inv s) : Inv s.tickTurn := by
  unfold State.tickTurn State.wdtTick
  split
  · rename_i ha
    have hp := h.watchdogPhase ha
    split
    · exact { h with watchdogPhase := nofun, timeoutPhase := fun _ => hp, watchdogBelow := nofun }
    · exact { h with watchdogBelow := fun _ ht => Nat.lt_of_le_of_ne (h.watchdogBelow ha ht) ‹_› }
  · exact { h with }

theorem Inv.linkTurn {s : State} (h : Inv s) (m : LinkMove) : Inv (s.linkTurn m) := by
  rw [s.linkTurn_frame]
  exact { h with }

theorem State.reset_resting : State.reset.Resting := by
  obtain ⟨htext, htxbuf, hstage⟩ := reset_stores_wf
  exact ⟨⟨htext, htxbuf, hstage, nofun⟩, rfl, rfl, rfl, rfl, rfl, rfl, rfl⟩

theorem Inv.powerOn (s : State) : Inv s.powerOn :=
  State.Resting.inv (s := s.powerOn) State.reset_resting (.off rfl)

theorem Inv.exec {s t : State} {i : Instr} (h : Inv s) (hx : exec i s = .next t) : Inv t := by
  cases i
  case init =>
    obtain ⟨-, rfl⟩ | ⟨hp, rfl⟩ | ⟨-, rfl⟩ := execInit_cases hx
    · exact { h with }
    · exact State.Resting.inv (h.resting (by rw [hp]; rfl) :) (.wedge rfl rfl)
    · rw [s.teardown_eq]
      exact State.Resting.inv ⟨h.storesWf, rfl, rfl, rfl, rfl, rfl, rfl, rfl⟩ (.wedge rfl rfl)
  case write row col minw len =>
    cases hx
    exact { h with textWf := wf_writeResult _ _ _ _ _ row.isLt h.textWf }
  case clear =>
    cases hx
    exact { h with textWf := Memory.wf_fill _ _ _ _ (by decide) h.textWf }
  case backlight on =>
    cases hx
    exact { h with }
  case sync =>
    cases hx
    exact { h with syncSeenBelow := fun _ => (by decide : (0#2).toNat < 2) }
  case faultInject =>
    simp only [Machine.exec, execFaultInject] at hx
    split at hx
    · cases hx
      exact { h with injectPhase := fun _ => ‹_› }
    · cases hx
      exact { h with }

theorem Inv.stageWrite {s : State} (h : Inv s) {k : Nat} (hk : k < 4) (v : Word) : Inv (s.stageWrite k v) := by
  have wr (m : Memory) (j : Nat) (b : Byte) (hj : j < 4) (hm : Memory.wf stageBg Config.stageSize m = true) :
      Memory.wf stageBg Config.stageSize (Memory.write stageBg m (4 * k + j) b) = true :=
    Memory.wf_write _ _ _ _ _ (by unfold Config.stageSize; omega) hm
  exact { h with
    stageWf := wr _ 3 _ (by omega) (wr _ 2 _ (by omega) (wr _ 1 _ (by omega) (wr _ 0 _ (by omega) h.stageWf))) }

theorem Inv.hostTurn {s t : State} (h : Inv s) (ht : hostTurn s = .next t) : Inv t := by
  have hd : Inv s.hostDone := { h with }
  obtain ⟨p, d, e, rfl⟩ | ⟨v, rest, i, -, -, hx⟩ | ⟨k, v, rest, hk, -, rfl⟩ := hostTurn_cases ht
  · exact { h with }
  · exact hd.exec hx
  · exact hd.stageWrite hk v

theorem Inv.turnTaken {s : State} (h : Inv s) : Inv s.turnTaken := by
  rw [s.turnTaken_frame]
  exact { h with }

/-- Settles O58, agent by agent. -/
theorem invKept : Obligations.InvKept := by
  intro s t h hstep
  have hk : Inv s.turnTaken := h.turnTaken
  obtain ⟨-, ht⟩ | ⟨-, rfl⟩ | ⟨-, ht⟩ | ⟨-, rfl⟩ | ⟨m, -, rfl⟩ | ⟨c, d, -, rfl⟩ | ⟨-, rfl⟩ := step_next hstep
  · exact hk.hostTurn ht
  · exact hk.seqTurn
  · obtain ⟨hr, hptr, rfl⟩ | ⟨-, rfl⟩ := dmaTurn_next ht
    · exact hk.dmaMove hr hptr
    · exact hk
  · exact hk.tickTurn
  · exact hk.linkTurn m
  · exact { hk with }
  · exact Inv.powerOn _

end Sys2Proof.Machine
end

section
/-! The host register window (R40 to R51): which accesses decode, and each word's fields, read off the concatenation that
the word is (O17 to O20, O22, O23); and O57. -/

namespace Sys2Proof.Machine

/-! Which accesses decode (R40, R73). -/

theorem State.turnTaken_hostProg (s : State) : s.turnTaken.hostProg = s.hostProg := by
  rw [s.turnTaken_frame]

theorem State.turnTaken_regRead (s : State) (r : HostReg) : s.turnTaken.regRead r = s.regRead r := by
  rw [s.turnTaken_frame]
  cases r <;> rfl

/-- HOST's turn makes the access at the head of its program. -/
theorem step_host {s : State} {op : HostOp} {rest : List HostOp} (ht : s.turn = .host) (hp : s.hostProg = op :: rest) :
    step s = hostAccess s.turnTaken op := by
  rw [step, ht]
  show hostTurn s.turnTaken = _
  rw [hostTurn, s.turnTaken_hostProg, hp]

theorem accessReg_word {off : Nat} {r : HostReg} (hr : regAt off = some r) : accessReg .word off = some r := by
  rwa [accessReg, if_pos rfl]

theorem exists_regAt {off : Nat} (h4 : off % 4 = 0) (h : off < 0x60) : ∃ r, regAt off = some r :=
  Option.ne_none_iff_exists'.mp fun hn => by
    have := (regAt_none_iff off).mp hn
    omega

theorem hostAccess_read {s : State} {off : Nat} {r : HostReg} (hr : regAt off = some r) :
    ∃ t, hostAccess s (.read .word off) = .next t ∧ t.hostData = s.regRead r := by
  simp only [hostAccess, accessReg_word hr]
  exact ⟨_, rfl, rfl⟩

theorem hostAccess_poll {s : State} {off : Nat} {r : HostReg} (hr : regAt off = some r) (mask v : Word) :
    ∃ t, hostAccess s (.poll off mask v) = .next t ∧ t.hostData = s.regRead r := by
  simp only [hostAccess, accessReg_word hr]
  split <;> exact ⟨_, rfl, rfl⟩

/-- Settles O17: the register map by evaluation at each offset, the accesses by `accessReg_none_iff`. -/
theorem hostAccessDecoding : Obligations.HostAccessDecoding := by
  refine ⟨⟨rfl, rfl, rfl, rfl, rfl, rfl, rfl, by decide, by decide, by decide, by decide⟩, ?_, ?_, ?_⟩
  · intro s w off v rest ht hout
    have hn := (accessReg_none_iff w off).mpr hout
    constructor <;> intro hp <;> rw [step_host ht hp] <;> simp only [hostAccess, hn]
  · intro s off mask v rest ht hout hp
    have hn := (accessReg_none_iff .word off).mpr (.inr hout)
    rw [step_host ht hp]
    simp only [hostAccess, hn]
  · intro s off v rest ht h4 hlt
    obtain ⟨r, hr⟩ := exists_regAt h4 hlt
    refine ⟨r, hr, fun hp => ?_, fun mask hp => ?_, fun hp => ?_⟩
    · rw [step_host ht hp, ← s.turnTaken_regRead]
      exact hostAccess_read hr
    · rw [step_host ht hp, ← s.turnTaken_regRead]
      exact hostAccess_poll hr mask v
    · rw [step_host ht hp]
      simp only [hostAccess, accessReg_word hr, State.hostDone, s.turnTaken_hostProg, hp, List.tail_cons]

/-! Fields of a concatenation: skip the fields below, then take the last one. -/

theorem getLsbD_append_skip {m n k : Nat} (a : BitVec m) (b : BitVec n) (h : n ≤ k) :
    (a ++ b).getLsbD k = a.getLsbD (k - n) := by
  rw [BitVec.getLsbD_append, if_neg (Nat.not_lt.mpr h)]

theorem getLsbD_append_bit {m : Nat} (a : BitVec m) (b : Bool) : (a ++ bit1 b).getLsbD 0 = b := by
  rw [BitVec.getLsbD_append]
  cases b <;> rfl

theorem getLsbD_append_zero {m : Nat} (a : BitVec m) : (a ++ 0#1).getLsbD 0 = false := by
  rw [BitVec.getLsbD_append]
  rfl

theorem extractLsb'_append_skip {m n k l : Nat} (a : BitVec m) (b : BitVec n) (h : n ≤ k) :
    (a ++ b).extractLsb' k l = a.extractLsb' (k - n) l :=
  BitVec.extractLsb'_append_eq_of_le h

theorem extractLsb'_append_last {m n : Nat} (a : BitVec m) (b : BitVec n) : (a ++ b).extractLsb' 0 n = b := by
  rw [BitVec.extractLsb'_append_eq_of_add_le (Nat.zero_add n).le]
  exact BitVec.extractLsb'_eq_self

/-- A concatenation as a number. -/
theorem toNat_append_eq {m n : Nat} (a : BitVec m) (b : BitVec n) : (a ++ b).toNat = 2 ^ n * a.toNat + b.toNat := by
  rw [BitVec.toNat_append, Nat.shiftLeft_eq, Nat.mul_comm, Nat.two_pow_add_eq_or_of_lt b.isLt]

theorem Mode.code_modeOf (p : Params) (a : BitVec 7) :
    (modeOf p a).code = if a = 0 then 0 else if a = p.oledAddr then 2 else 1 := by
  unfold modeOf
  split
  · rfl
  · split <;> rfl

/-- Settles O18, field by field from bit 0 up. -/
theorem statusRegister : Obligations.StatusRegister := by
  refine ⟨by decide, fun s v => ⟨rfl, rfl, ?_⟩⟩
  simp only [State.statusWord, getLsbD_append_skip, getLsbD_append_bit, extractLsb'_append_skip,
    extractLsb'_append_last, BitVec.extractLsb'_eq_self, Nat.reduceLeDiff, Nat.reduceSub, true_and]
  have hmode : s.mode.code = if s.devAddr = 0 then 0 else if s.devAddr = s.params.oledAddr then 2 else 1 :=
    Mode.code_modeOf _ _
  refine ⟨?_, ?_, hmode, ?_, ?_, ?_, rfl, ?_, rfl⟩
  · cases s.phase <;> rfl
  · cases s.phase <;> rfl
  · cases s.failCause <;> rfl
  · cases s.phase <;> rfl
  · cases s.oledCyc <;> rfl
  · obtain _ | e := s.lastEvt
    · rfl
    · cases e <;> rfl

/-- Settles O19: each word as the number its fields make. -/
theorem counterRegisters : Obligations.CounterRegisters := by
  refine ⟨by decide, fun s => ⟨?_, ?_, ?_, ?_, fun v => ⟨rfl, rfl, rfl, rfl⟩⟩⟩
  · simp only [State.regRead, State.refreshWord, toNat_append_eq, BitVec.toNat_zero]
    omega
  · simp only [State.regRead, State.devAddrWord, toNat_append_eq, BitVec.toNat_zero]
    omega
  · simp only [State.regRead, State.faultsWord, toNat_append_eq, BitVec.toNat_zero]
    omega
  · simp only [State.regRead, State.lastErrWord, toNat_append_eq, BitVec.toNat_zero]
    cases s.lastErrCause <;> rfl

/-- Settles O20, field by field from bit 0 up. -/
theorem padsRegister : Obligations.PadsRegister := by
  refine ⟨⟨rfl, rfl, rfl, rfl⟩, fun s v => ⟨rfl, ?_⟩⟩
  simp only [State.regRead, State.padsWord, getLsbD_append_skip, getLsbD_append_bit, extractLsb'_append_skip,
    extractLsb'_append_last, getLsbD_append_zero, BitVec.extractLsb'_eq_self, Nat.reduceLeDiff, Nat.reduceSub, true_and]
  refine ⟨?_, ?_, rfl, rfl, rfl⟩
  · cases s.sclMode <;> rfl
  · cases s.sdaMode <;> rfl

/-- The lanes of a word (R71). -/
theorem wordOfLanes_lane (f : Nat → Byte) {j : Nat} (hj : j < 4) :
    (wordOfLanes (f 0) (f 1) (f 2) (f 3)).extractLsb' (8 * j) 8 = f j := by
  unfold wordOfLanes
  interval_cases j <;>
    simp only [extractLsb'_append_skip, extractLsb'_append_last, BitVec.extractLsb'_eq_self, Nat.reduceLeDiff,
      Nat.reduceSub, Nat.reduceMul]

theorem regAt_text {r k : Nat} (hr : r < 2) (hk : k < 4) : regAt (0x40 + 16 * r + 4 * k) = some (.text r k) := by
  interval_cases r <;> interval_cases k <;> rfl

/-- At reset every cell of TEXT is blank (R24). -/
theorem reset_textWord (r k : Nat) : State.reset.textWord r k = 0x20202020 := by
  show wordOfLanes textBg textBg textBg textBg = 0x20202020
  decide

/-- Settles O23. -/
theorem textWindows : Obligations.TextWindows := fun s r k hr hk =>
  ⟨regAt_text hr hk, fun _ hj => wordOfLanes_lane (fun j => s.cell r (4 * k + j)) hj, fun _ => rfl, reset_textWord r k⟩

/-- Settles O22: only CMD and STAGE take a write (R74). -/
theorem ignoredWrites : Obligations.IgnoredWrites := by
  refine ⟨?_, fun s => ⟨rfl, rfl⟩, fun s r v hcmd hstage => ?_⟩
  · rintro off (rfl | rfl | rfl | rfl | rfl) <;> rfl
  · cases r
    case cmd => exact absurd rfl hcmd
    case stage k => exact absurd rfl (hstage k)
    all_goals rfl

/-- Settles O57: reset is a resting state in OFF, with a quiet link. -/
theorem invAtReset : Obligations.InvAtReset := ⟨State.reset_resting.inv (.off rfl), by decide⟩

end Sys2Proof.Machine
end

section
/-! Who writes the fault record (R38, O42), HOST's stores (R24, R25, R45, O54) and REFRESH_COUNT (R27, O55); and the wedge
check (R181 to R183, O44). -/

namespace Sys2Proof.Machine

theorem step_seq {s : State} (ht : s.turn = .seq) : step s = .next s.turnTaken.seqTurn := by
  rw [step, ht]
  rfl

/-! The fault record. -/

/-- The cause a fault event records (R322 to R324). -/
def Event.faultCause : Event → Option ErrCause
  | .err => some .linkErr
  | .to => some .timeout
  | .inj => some .injected
  | .sb | .addr | .tc | .btf | .stopDone => none

theorem Event.faultCause_eq_some {e : Event} {c : ErrCause} (h : e.faultCause = some c) :
    (e = .err ∧ c = .linkErr) ∨ (e = .to ∧ c = .timeout) ∨ (e = .inj ∧ c = .injected) := by
  cases e <;> simp_all [Event.faultCause]

/-- A handler takes the fault of its event, or leaves the fault record alone. -/
theorem State.handle_faultRecord (s : State) (e : Event) :
    (∃ c, e.faultCause = some c ∧ s.handle e = s.takeFault c) ∨ (s.handle e).faultRecord = s.faultRecord := by
  cases e
  case sb => exact .inr rfl
  case addr => exact .inr rfl
  case btf => exact .inr rfl
  case tc =>
    right
    simp only [State.handle, State.onTc]
    cases s
    split <;> rfl
  case stopDone => exact .inr (by rw [State.handle, State.onStopDone_eq]; rfl)
  all_goals exact .inl ⟨_, rfl, rfl⟩

/-- A SEQ turn writes the fault record only where it takes a fault in a loop phase (R329). -/
theorem State.seqTurn_faultRecord (s : State) :
    s.seqTurn.faultRecord = s.faultRecord ∨
      (s.phase.inLoop = true ∧ ∃ e c, e.faultCause = some c ∧ s.seqTurn = (s.tookEvent e).takeFault c) := by
  obtain h | ⟨-, h⟩ | ⟨hp, e, -, h⟩ := s.seqTurn_cases
  · exact .inl (by rw [h])
  · rw [h]
    obtain hl | ⟨-, -, -, hl⟩ := s.seqProc_leads
    · exact .inl hl.faultRecord_eq
    · exact .inl hl.faultRecord_eq
  · rw [h]
    obtain ⟨c, hc, hf⟩ | hf := (s.tookEvent e).handle_faultRecord e
    · exact .inr ⟨hp, e, c, hc, hf⟩
    · exact .inl hf

theorem State.faultRecord_eq_iff (s t : State) : t.faultRecord = s.faultRecord ↔
    t.faultCount = s.faultCount ∧ t.lastErrRaw = s.lastErrRaw ∧ t.lastErrCause = s.lastErrCause := by
  simp [State.faultRecord]

/-- Settles O42. -/
theorem faultCountOnlyByFaults : Obligations.FaultCountOnlyByFaults := by
  intro s t h
  by_cases hpow : s.turn = .powerOn
  · refine .inr (.inl ?_)
    rw [step, hpow] at h
    cases h
    exact ⟨hpow, rfl, rfl, rfl⟩
  by_cases hseq : s.turn = .seq
  · rw [step_seq hseq] at h
    injection h with ht
    obtain ⟨l, n, hk⟩ := s.exists_turnTaken
    obtain hf | ⟨hp, e, c, hc, hf⟩ := s.turnTaken.seqTurn_faultRecord
    · rw [ht, hk] at hf
      exact .inl ((s.faultRecord_eq_iff t).mp hf)
    · rw [ht, hk, State.takeFault_eq] at hf
      rw [hk] at hp
      obtain ⟨hoff, hinit, hrec⟩ := Phase.inLoop_ne hp
      refine .inr (.inr ⟨hseq, hoff, hinit, hrec, ?_⟩)
      rw [hf]
      refine ⟨rfl, rfl, rfl, ?_⟩
      obtain ⟨rfl, rfl⟩ | ⟨rfl, rfl⟩ | ⟨rfl, rfl⟩ := Event.faultCause_eq_some hc
      · exact .inl ⟨rfl, rfl⟩
      · exact .inr (.inl ⟨rfl, rfl⟩)
      · exact .inr (.inr ⟨rfl, rfl⟩)
  · have hf := congrArg (fun p => p.2.2.2) (step_seqOwned h hseq hpow)
    exact .inl ((s.faultRecord_eq_iff t).mp hf)

/-! HOST's stores. -/

/-- The stores a command may write (R142, R144, R145). -/
theorem exec_stores {i : Instr} {s t : State} (h : exec i s = .next t) :
    t.stage = s.stage ∧ (t.text = s.text ∨ i = .clear ∨ ∃ row col minw len, i = .write row col minw len) ∧
      (t.bl = s.bl ∨ ∃ on, i = .backlight on) := by
  cases i
  case init =>
    obtain ⟨-, rfl⟩ | ⟨-, rfl⟩ | ⟨-, rfl⟩ := execInit_cases h
    · exact ⟨rfl, .inl rfl, .inl rfl⟩
    · exact ⟨rfl, .inl rfl, .inl rfl⟩
    · rw [s.teardown_eq]
      exact ⟨rfl, .inl rfl, .inl rfl⟩
  case write row col minw len =>
    cases h
    exact ⟨rfl, .inr (.inr ⟨row, col, minw, len, rfl⟩), .inl rfl⟩
  case clear =>
    cases h
    exact ⟨rfl, .inr (.inl rfl), .inl rfl⟩
  case backlight on =>
    cases h
    exact ⟨rfl, .inl rfl, .inr ⟨on, rfl⟩⟩
  case sync =>
    cases h
    exact ⟨rfl, .inl rfl, .inl rfl⟩
  case faultInject =>
    simp only [exec, execFaultInject] at h
    split at h <;> cases h <;> exact ⟨rfl, .inl rfl, .inl rfl⟩

/-- What HOST's turn may write of its stores, and by which access. -/
theorem hostTurn_stores {s t : State} (h : hostTurn s = .next t) :
    (t.text ≠ s.text → ∃ w rest i, s.hostProg = .write .word 0x00 w :: rest ∧ decode w = .ok i ∧
      (i = .clear ∨ ∃ row col minw len, i = .write row col minw len)) ∧
    (t.bl ≠ s.bl → ∃ w rest on, s.hostProg = .write .word 0x00 w :: rest ∧ decode w = .ok (.backlight on)) ∧
    (t.stage ≠ s.stage → ∃ k v rest, k < 4 ∧ s.hostProg = .write .word (0x10 + 4 * k) v :: rest) := by
  obtain ⟨p, d, e, rfl⟩ | ⟨v, rest, i, hp, hi, hx⟩ | ⟨k, v, rest, hk, hp, rfl⟩ := hostTurn_cases h
  · exact ⟨absurd rfl, absurd rfl, absurd rfl⟩
  · obtain ⟨hstage, htext, hbl⟩ := exec_stores hx
    refine ⟨fun hne => ⟨v, rest, i, hp, hi, htext.resolve_left hne⟩, fun hne => ?_, absurd hstage⟩
    obtain ⟨on, rfl⟩ := hbl.resolve_left hne
    exact ⟨v, rest, on, hp, hi⟩
  · exact ⟨absurd rfl, absurd rfl, fun _ => ⟨k, v, rest, hk, hp⟩⟩

theorem step_params {s t : State} (h : step s = .next t) : t.params = s.params := by
  by_cases hpow : s.turn = .powerOn
  · rw [step, hpow, s.turnTaken_frame] at h
    cases h
    rfl
  by_cases hseq : s.turn = .seq
  · exact congrArg Prod.fst (step_stores h (by simp [hseq]) hpow)
  · exact congrArg Prod.fst (step_seqOwned h hseq hpow)

/-- Settles O54. -/
theorem storeWriters : Obligations.StoreWriters := by
  refine fun s t h => ⟨step_params h, fun hhost hpow => ?_, fun hhost => ?_⟩
  · have hs := step_stores h hhost hpow
    simp only [State.stores, Prod.mk.injEq] at hs
    exact hs.2
  · rw [step, hhost] at h
    have hs := hostTurn_stores h
    obtain ⟨l, n, hk⟩ := s.exists_turnTaken
    rwa [hk] at hs

/-! REFRESH_COUNT. -/

/-- What RefreshTick writes (R147). -/
def State.refreshPart (s : State) : BitVec 8 × BitVec 2 × Bool := (s.refreshCount, s.syncSeen, s.syncBusy)

/-- LoopStart runs RefreshTick in LCD mode only (R234, R285). -/
theorem State.loopStart_refresh (s : State) : s.loopStart.refreshCount = s.refreshCount ∨
    (s.mode ≠ .oled ∧ s.loopStart.refreshPart = s.refreshTick.refreshPart) := by
  by_cases hm : s.mode = .oled
  · exact .inl (by rw [s.loopStart_oled hm])
  · exact .inr ⟨hm, by rw [s.loopStart_lcd hm]; rfl⟩

theorem State.ProcLeads.refresh {u t : State} (h : u.ProcLeads t) : t.refreshCount = u.refreshCount ∨
    (u.mode ≠ .oled ∧ t.refreshPart = u.refreshTick.refreshPart) := by
  obtain h | ⟨v, h, rfl⟩ := h
  · exact .inl (congrArg State.refreshCount h :)
  · have hc : v.refreshCount = u.refreshCount := (congrArg State.refreshCount h :)
    have hm : v.mode = u.mode := (congrArg State.mode h :)
    have ht : v.refreshTick.refreshPart = u.refreshTick.refreshPart :=
      (congrArg (fun w => w.refreshTick.refreshPart) h :)
    rw [← hc, ← hm, ← ht]
    exact v.loopStart_refresh

/-- In the loop RefreshTick runs at a TC in LCD mode and at STOPDONE (R289, R294). -/
theorem State.handle_refresh (s : State) (e : Event) : (s.handle e).refreshCount = s.refreshCount ∨
    ((s.mode ≠ .oled ∨ e = .stopDone) ∧ (s.handle e).refreshPart = s.refreshTick.refreshPart) := by
  cases e
  case tc =>
    simp only [State.handle, State.onTc]
    split
    case h_2 hm => exact .inr ⟨.inl (by simp [hm]), by simp [State.refreshPart, State.lcdSnapshot, State.tcCommon]⟩
    all_goals exact .inl (by simp [State.oledRow, State.tcCommon])
  case stopDone => exact .inr ⟨.inr rfl, by rw [State.handle, State.onStopDone_eq]; rfl⟩
  case sb => exact .inl rfl
  case addr => exact .inl rfl
  case btf => exact .inl rfl
  all_goals exact .inl (by rw [State.handle, State.takeFault_eq])

/-- A SEQ turn that moves REFRESH_COUNT runs RefreshTick; in OLED mode it is the one that takes STOPDONE. -/
theorem State.seqTurn_refresh (s : State) : s.seqTurn.refreshCount = s.refreshCount ∨
    (s.seqTurn.refreshPart = s.refreshTick.refreshPart ∧
      (Inv s → s.mode = .oled → s.eventReady .stopDone = true ∧ s.seqTurn = (s.tookEvent .stopDone).onStopDone)) := by
  obtain h | ⟨hp, h⟩ | ⟨-, e, he, h⟩ := s.seqTurn_cases
  · exact .inl (by rw [h])
  · rw [h]
    obtain hl | ⟨hi, hw, -, hl⟩ := s.seqProc_leads
    · exact hl.refresh.imp_right fun ⟨hm, hr⟩ => ⟨hr, fun _ ho => absurd ho hm⟩
    · refine hl.refresh.imp_right fun ⟨_, hr⟩ => ⟨hr, fun hinv ho => ?_⟩
      have hnone := s.mode_eq_none.mpr (hinv.probe_done hp hi hw).2
      simp [hnone] at ho
  · rw [h]
    refine ((s.tookEvent e).handle_refresh e).imp_right fun ⟨hc, hr⟩ => ⟨hr, fun _ ho => ?_⟩
    obtain rfl := hc.resolve_left (not_not_intro ho)
    exact ⟨he, rfl⟩

/-- Settles O55. -/
theorem refreshOnlyByTick : Obligations.RefreshOnlyByTick := by
  intro s t h hpow
  by_cases hseq : s.turn = .seq
  · rw [step_seq hseq] at h
    injection h with ht
    have hk : Inv s → Inv s.turnTaken := Inv.turnTaken
    have hr := s.turnTaken.seqTurn_refresh
    obtain ⟨l, n, he⟩ := s.exists_turnTaken
    rw [ht, he] at hr
    rw [he] at hk
    obtain hr | ⟨hr, holed⟩ := hr
    · exact ⟨.inl hr, fun _ _ hne => absurd hr hne⟩
    · simp only [State.refreshPart, Prod.mk.injEq] at hr
      obtain ⟨hcount, hseen, hbusy⟩ := hr
      refine ⟨.inr ⟨hseq, hcount, hseen, hbusy⟩, fun hinv hm _ => ?_⟩
      obtain ⟨hready, rfl⟩ := holed (hk hinv) hm
      simp only [State.eventReady, Bool.and_eq_true, decide_eq_true_eq, Bool.not_eq_true'] at hready
      rw [State.onStopDone_eq]
      exact ⟨hready.1, hready.2, rfl, rfl⟩
  · have hr : t.refreshCount = s.refreshCount := congrArg (fun p => p.2.1) (step_seqOwned h hseq hpow)
    exact ⟨.inl hr, fun _ _ hne => absurd hr hne⟩

/-! The wedge check. -/

/-- The bring-up's steps and the loop start leave the pads, the wedge flags and DEV_ADDR alone. -/
theorem State.bringRun_keeps (u : State) :
    u.bringRun.wedgeSeen = u.wedgeSeen ∧ u.bringRun.wedgeStuck = u.wedgeStuck ∧ u.bringRun.sclMode = u.sclMode ∧
      u.bringRun.sdaMode = u.sdaMode ∧ u.bringRun.devAddr = u.devAddr := by
  have h := u.bringRun_bringsUp
  unfold State.BringsUp at h
  split at h
  · rw [h]
    exact ⟨rfl, rfl, rfl, rfl, rfl⟩
  · rw [h]
    exact ⟨rfl, rfl, rfl, rfl, rfl⟩
  · rw [h]
    by_cases hm : u.mode = .oled
    · rw [u.loopStart_oled hm]
      exact ⟨rfl, rfl, rfl, rfl, rfl⟩
    · rw [u.loopStart_lcd hm]
      exact ⟨rfl, rfl, rfl, rfl, rfl⟩

theorem State.initEntry_wedgeStart_eq (s : State) : s.initEntry.wedgeStart = { s with
    initFailed := false, failCause := .none, wedgeSeen := false, wedgeStuck := false
    wire := s.wire ++ abortTrace s.link.opn
    link := s.link.cleared
    sclMode := .od, sclLvl := true, sdaMode := .od, sdaLvl := true
    istep := .wedge, delayEnd := s.now + s.params.tSettle, waitAt := .wedgeSettle } := by
  cases s; rfl

theorem State.wedged_iff (s : State) : s.wedged = true ↔ s.sclIn = true ∧ s.sdaIn = false := by
  simp [State.wedged]

/-- At the end of the settle delay SEQ samples the lines (R183). -/
theorem State.seqTurn_wedgeSample {s : State} (hp : s.phase = .init) (hw : s.waitAt = .wedgeSettle)
    (hd : s.delayEnd ≤ s.now) : s.seqTurn = s.wedgeSample := by
  rw [State.seqTurn_proc (.inl hp), State.seqProc_wedgeSettle hw, if_pos (s.delayOver_iff.mpr hd)]

/-- Settles O44. -/
theorem wedgeCheck : Obligations.WedgeCheck := by
  refine ⟨fun s hp hw => ?_, fun s hp hw hd => ?_, fun s hp hw hd hscl hsda => ?_, fun s hp hw hd hlines => ?_,
    fun s => ⟨rfl, rfl⟩⟩
  · rw [State.seqTurn_proc (.inl hp), State.seqProc_initEntry hw, State.initEntry_wedgeStart_eq]
    rfl
  · rw [State.seqTurn_proc (.inl hp), State.seqProc_wedgeSettle hw, if_neg]
    rw [State.delayOver_iff]
    omega
  · rw [State.seqTurn_wedgeSample hp hw hd, State.wedgeSample, if_pos (s.wedged_iff.mpr ⟨hscl, hsda⟩)]
    cases s; rfl
  · have hn : ¬ s.wedged = true := fun h => by
      obtain ⟨hscl, hsda⟩ := s.wedged_iff.mp h
      simp [hscl, hsda] at hlines
    rw [State.seqTurn_wedgeSample hp hw hd, State.wedgeSample, if_neg hn]
    by_cases h0 : s.devAddr = 0
    · rw [s.afterWedge_first h0]
      exact ⟨rfl, rfl, fun _ => rfl, absurd h0⟩
    · rw [s.afterWedge_rerun h0]
      obtain ⟨hseen, hstuck, hscl, hsda, hdev⟩ := State.bringRun_keeps { s with
        sclMode := .alt, sdaMode := .alt
        wire := s.wire ++ abortTrace s.link.opn
        link := { Link.reset with speed := if s.mode = .oled then .fast else .std, en := true }
        istep := .bringUp, bstep := 0 }
      exact ⟨hseen, hstuck, fun h => absurd h h0, fun _ => ⟨hscl, hsda, hdev, State.bringRun_bringsUp _⟩⟩

end Sys2Proof.Machine
end

section
/-! What one step is, by whose turn it is: reads and POLLs of HOST (O16), commands and the other agents (O6), and that
under Inv only a host access stops the machine (O60). -/

namespace Sys2Proof.Machine

/-! HOST's accesses. -/

/-- A read returns the register's value and changes HOST's fields alone (R75, R150). -/
theorem step_read {s : State} {off : Nat} {r : HostReg} {rest : List HostOp} (ht : s.turn = .host)
    (hp : s.hostProg = .read .word off :: rest) (hr : regAt off = some r) :
    step s = .next { s.turnTaken with hostProg := rest, hostData := s.regRead r } := by
  rw [step_host ht hp]
  simp only [hostAccess, accessReg_word hr, State.hostGot, State.hostDone, s.turnTaken_regRead, s.turnTaken_hostProg, hp,
    List.tail_cons]

/-- A POLL is used up only by the value it awaits (R121). -/
theorem step_poll {s : State} {off : Nat} {mask v : Word} {r : HostReg} {rest : List HostOp} (ht : s.turn = .host)
    (hp : s.hostProg = .poll off mask v :: rest) (hr : regAt off = some r) :
    step s = .next { s.turnTaken with
      hostProg := if s.regRead r &&& mask = v then rest else s.hostProg
      hostData := s.regRead r } := by
  rw [step_host ht hp]
  simp only [hostAccess, accessReg_word hr, s.turnTaken_regRead]
  by_cases hv : s.regRead r &&& mask = v
  · rw [if_pos hv, if_pos hv]
    simp only [State.hostGot, State.hostDone, s.turnTaken_hostProg, hp, List.tail_cons]
  · rw [if_neg hv, if_neg hv, ← s.turnTaken_hostProg]
    rfl

/-- Settles O16. -/
theorem registerReads : Obligations.RegisterReads :=
  ⟨fun _ _ _ _ ht hp hr => step_read ht hp hr, fun _ _ _ _ _ _ ht hp hr => step_poll ht hp hr⟩

/-- HOST's write of a word to CMD is `cmdWrite` with the turn and the access used up (R140). -/
theorem step_writeCmd {s : State} {w : Word} {rest : List HostOp} (ht : s.turn = .host)
    (hp : s.hostProg = .write .word 0x00 w :: rest) : step s = cmdWrite { s.turnTaken with hostProg := rest } w := by
  rw [step_host ht hp]
  simp only [hostAccess, accessReg_word (show regAt 0x00 = some .cmd from rfl), regWrite, State.hostDone,
    s.turnTaken_hostProg, hp, List.tail_cons]

theorem cmdWrite_of_decode {w : Word} {i : Instr} (h : decode w = .ok i) (s : State) : cmdWrite s w = exec i s := by
  simp only [cmdWrite, h]

theorem cmdWrite_of_reject {w : Word} {r : DecodeReject} (h : decode w = .error r) (s : State) :
    cmdWrite s w = .next s.rejectCmd := by
  simp only [cmdWrite, h]

/-! The turns. -/

theorem State.turnTaken_eq (s : State) : s.turnTaken =
    { s with sched := s.sched.tail, freeIdx := if s.sched = [] then s.freeIdx + 1 else s.freeIdx } := by
  cases h : s.sched with
  | nil => simp only [State.turnTaken, h, if_pos, List.tail_nil]
  | cons t rest => simp only [State.turnTaken, h, if_neg (List.cons_ne_nil t rest), List.tail_cons]

theorem step_of_turn {s : State} {a : Turn} (ht : s.turn = a) : step s = runTurn a s.turnTaken := by
  rw [step, ht]

theorem step_host_idle {s : State} (ht : s.turn = .host) (hp : s.hostProg = []) : step s = .next s.turnTaken := by
  rw [step_of_turn ht, runTurn, hostTurn, s.turnTaken_hostProg, hp]

/-- The word placed is what HOST writes next, and the turn and the access placed with it are all that step uses up. -/
theorem step_withFetchWord (s : State) (w : Word) : step (s.withFetchWord 32 w.toNat) = cmdWrite s w := by
  have hw : BitVec.ofNat 32 (w.toNat % 2 ^ 32) = w := by
    rw [Nat.mod_eq_of_lt w.isLt, BitVec.ofNat_toNat, BitVec.setWidth_eq]
  rw [State.withFetchWord, hw]
  exact step_writeCmd rfl rfl

/-- Settles O6. -/
theorem stepRunsDecodedCommand : Obligations.StepRunsDecodedCommand := by
  refine ⟨fun s w i rest ht hp hd => ?_, fun s w r rest ht hp hd => ?_, State.turnTaken_eq, fun s => ?_,
    fun s w i hd => ?_⟩
  · rw [step_writeCmd ht hp, cmdWrite_of_decode hd]
  · rw [step_writeCmd ht hp, cmdWrite_of_reject hd]
    rfl
  · exact ⟨step_of_turn, step_of_turn, step_of_turn, fun _ => step_of_turn, fun _ _ => step_of_turn, step_host_idle⟩
  · rw [step_withFetchWord, cmdWrite_of_decode hd]

/-! What can stop the machine. -/

/-- No payload is longer than TXBUF (R26, R247). -/
theorem State.payloadLen_le_txbufSize (s : State) : s.payloadLen ≤ Config.txbufSize := by
  unfold State.payloadLen
  split <;> decide

/-- A ready channel has bytes left of a payload that fits TXBUF (R53 f): the index of its next byte is in TXBUF. -/
theorem Inv.chPtr_lt {s : State} (h : Inv s) (hr : s.dmaReady = true) : s.chPtr.toNat < Config.txbufSize := by
  simp only [State.dmaReady, Bool.and_eq_true, decide_eq_true_eq] at hr
  obtain ⟨⟨⟨hen, hcnt⟩, -⟩, -⟩ := hr
  have hspan := h.channelSpan hen
  have hlen := s.payloadLen_le_txbufSize
  have hpos : s.chCnt.toNat ≠ 0 := fun h0 => hcnt (BitVec.eq_of_toNat_eq h0)
  omega

theorem Inv.dmaTurn_next {s : State} (h : Inv s) : ∃ t, dmaTurn s = .next t := by
  unfold dmaTurn
  by_cases hr : s.dmaReady = true
  · rw [if_pos hr, if_pos (h.chPtr_lt hr)]
    exact ⟨_, rfl⟩
  · rw [if_neg hr]
    exact ⟨_, rfl⟩

/-- A host access answers a next state or is a bus error; it refuses nothing (R73). -/
theorem hostAccess_outcome (s : State) (op : HostOp) :
    (∃ t, hostAccess s op = .next t) ∨ hostAccess s op = .fault .hostBusError := by
  cases op with
  | read w off =>
    simp only [hostAccess]
    cases accessReg w off with
    | none => exact .inr rfl
    | some r => exact .inl ⟨_, rfl⟩
  | write w off v =>
    simp only [hostAccess]
    cases accessReg w off with
    | none => exact .inr rfl
    | some r => exact .inl (regWrite_next _ r v)
  | poll off mask v =>
    simp only [hostAccess]
    cases accessReg .word off with
    | none => exact .inr rfl
    | some r => exact .inl (by dsimp only; split <;> exact ⟨_, rfl⟩)

/-- From a state with Inv a step answers a next state, or is an access of HOST that does not decode. -/
theorem Inv.step_outcome {s : State} (h : Inv s) :
    (∃ t, step s = .next t) ∨ (step s = .fault .hostBusError ∧ s.turn = .host ∧
      ∃ op rest, s.hostProg = op :: rest ∧ HostOpOutside op) := by
  cases ht : s.turn with
  | host =>
    cases hp : s.hostProg with
    | nil => exact .inl ⟨_, step_host_idle ht hp⟩
    | cons op rest =>
      rw [step_host ht hp]
      obtain hnext | hfault := hostAccess_outcome s.turnTaken op
      · exact .inl hnext
      · exact .inr ⟨hfault, rfl, op, rest, rfl, (hostAccess_fault hfault).2⟩
  | dma =>
    rw [step_of_turn ht]
    exact .inl h.turnTaken.dmaTurn_next
  | seq | tick | link | bus | powerOn => exact .inl ⟨_, step_of_turn ht⟩

/-- Settles O60. -/
theorem onlyHostFaults : Obligations.OnlyHostFaults := by
  intro s h
  obtain ⟨t, hnext⟩ | ⟨hfault, hhost⟩ := h.step_outcome
  · rw [hnext]
    exact ⟨nofun, nofun⟩
  · rw [hfault]
    exact ⟨fun | _, rfl => ⟨rfl, hhost⟩, nofun⟩

end Sys2Proof.Machine
end

section
/-! Decoding and encoding (spec/30_encoding.md R100 to R109): a word decodes to a command exactly when it fits the command's
row of the opcode table and carries the command's operands (`decode_eq_ok_iff`); with it O1, O2 and O5. -/

namespace Sys2Proof

/-! An operand in its place in the word. -/

/-- The word that is 0 but for the operand `x`, whose lowest bit is bit `start`. -/
def placeAt (start : Nat) {len : Nat} (x : BitVec len) : Word := x.setWidth 32 <<< start

theorem extractLsb'_placeAt_same {start len : Nat} (h : start + len ≤ 32) (x : BitVec len) :
    (placeAt start x).extractLsb' start len = x := by
  ext k hk
  have hlt : start + k < 32 := by omega
  simp [placeAt, hlt, BitVec.getLsbD_eq_getElem hk]

theorem extractLsb'_placeAt_disjoint {start len start' len' : Nat} (h : start + len ≤ start' ∨ start' + len' ≤ start)
    (x : BitVec len) : (placeAt start x).extractLsb' start' len' = 0#len' := by
  ext k hk
  have hout : start' + k < start ∨ len ≤ start' + k - start := by omega
  obtain hbelow | habove := hout
  · simp [placeAt, hbelow]
  · simp [placeAt, BitVec.getLsbD_of_ge x _ habove]

/-- A field read out of a word and put back is that word with the bits outside the field cleared. -/
theorem placeAt_extractLsb' (w : Word) (start len : Nat) :
    placeAt start (w.extractLsb' start len) = w &&& placeAt start (BitVec.allOnes len) := by
  ext k hk
  by_cases hstart : k < start
  · simp [placeAt, hstart]
  · have hback : start + (k - start) = k := by omega
    simp [placeAt, hstart, hback, BitVec.getLsbD_eq_getElem hk, Bool.and_comm]

theorem encode_write (row : BitVec 1) (col : BitVec 5) (minw : BitVec 8) (len : BitVec 5) :
    encode (.write row col minw len) =
      0x20000000 ||| placeAt 24 row ||| placeAt 16 col ||| placeAt 8 minw ||| placeAt 0 len := by
  simp only [encode, placeAt, BitVec.shiftLeft_zero]
  rfl

theorem encode_backlight (on : BitVec 1) : encode (.backlight on) = 0x40000000 ||| placeAt 0 on := by
  simp only [encode, placeAt, BitVec.shiftLeft_zero]

/-! A word and the row of a command. -/

/-- The word meets the mask and the match of the command's row (R102 to R107). -/
def Instr.Fits (i : Instr) (w : Word) : Prop := w &&& Laws.EncodeFits.mask i = Laws.EncodeFits.pat i

/-- The command with its operands replaced by those the word carries (R109). -/
def Instr.readFrom (i : Instr) (w : Word) : Instr :=
  match i with
  | .init => .init
  | .write _ _ _ _ => .write (rowField w) (colField w) (minwField w) (lenField w)
  | .clear => .clear
  | .backlight _ => .backlight (onField w)
  | .sync => .sync
  | .faultInject => .faultInject

theorem Instr.fits_encode (i : Instr) : i.Fits (encode i) := by
  cases i with
  | init => exact Laws.EncodeFits.init
  | write row col minw len => exact Laws.EncodeFits.write row col minw len
  | clear => exact Laws.EncodeFits.clear
  | backlight on => exact Laws.EncodeFits.backlight on
  | sync => exact Laws.EncodeFits.sync
  | faultInject => exact Laws.EncodeFits.faultInject

/-- Every mask keeps the whole of OP (R100), so a word that fits a row has the row's OP. -/
theorem Instr.Fits.opField_eq {i : Instr} {w : Word} (h : i.Fits w) : opField w = opField (Laws.EncodeFits.pat i) := by
  have hmask : opField (Laws.EncodeFits.mask i) = BitVec.allOnes 4 := by
    cases i <;> dsimp only [Laws.EncodeFits.mask] <;> rfl
  calc opField w = opField w &&& opField (Laws.EncodeFits.mask i) := by rw [hmask, BitVec.and_allOnes]
    _ = opField (w &&& Laws.EncodeFits.mask i) := BitVec.extractLsb'_and.symm
    _ = opField (Laws.EncodeFits.pat i) := congrArg opField h

theorem opRow_of_pat (i : Instr) :
    opRow (opField (Laws.EncodeFits.pat i)) = some { mask := Laws.EncodeFits.mask i, pat := Laws.EncodeFits.pat i } := by
  cases i <;> dsimp only [Laws.EncodeFits.mask, Laws.EncodeFits.pat] <;> rfl

theorem commandOf_of_pat (i : Instr) (w : Word) :
    commandOf (opField (Laws.EncodeFits.pat i)) w = some (i.readFrom w) := by
  cases i <;> dsimp only [Laws.EncodeFits.pat] <;> rfl

/-- The command an OP selects: its operands are the word's, and its row is the OP's. -/
theorem commandOf_some {op : BitVec 4} {w : Word} {i : Instr} (h : commandOf op w = some i) :
    i.readFrom w = i ∧ op = opField (Laws.EncodeFits.pat i) := by
  unfold commandOf at h
  split_ifs at h <;> cases h <;> dsimp only [Laws.EncodeFits.pat] <;> exact ⟨rfl, ‹_›⟩

theorem Instr.Fits.decode_eq {i : Instr} {w : Word} (h : i.Fits w) : decode w = .ok (i.readFrom w) := by
  simp only [decode, h.opField_eq, opRow_of_pat, commandOf_of_pat]
  exact if_pos h

/-- When a word decodes to a command (R101 to R109). -/
theorem decode_eq_ok_iff {w : Word} {i : Instr} : decode w = .ok i ↔ i.Fits w ∧ i.readFrom w = i := by
  refine ⟨fun h => ?_, fun ⟨hfits, hread⟩ => by rw [hfits.decode_eq, hread]⟩
  unfold decode at h
  split at h
  next r j hrow hcmd =>
    obtain ⟨hread, hop⟩ := commandOf_some hcmd
    rw [hop, opRow_of_pat] at hrow
    cases hrow
    split_ifs at h with hfits
    cases h
    exact ⟨hfits, hread⟩
  next => cases h

/-! The round trips. -/

/-- No two operands of a command share a bit, so each is read back as it was placed. -/
theorem Instr.readFrom_encode (i : Instr) : i.readFrom (encode i) = i := by
  cases i with
  | write row col minw len =>
    simp (disch := omega) [Instr.readFrom, encode_write, rowField, colField, minwField, lenField, BitVec.extractLsb'_or,
      extractLsb'_placeAt_same, extractLsb'_placeAt_disjoint]
  | backlight on =>
    simp (disch := omega) [Instr.readFrom, encode_backlight, onField, BitVec.extractLsb'_or, extractLsb'_placeAt_same]
  | init | clear | sync | faultInject => rfl

/-- The bits a mask leaves out are the command's operands. -/
theorem encode_readFrom (i : Instr) (w : Word) :
    encode (i.readFrom w) = Laws.EncodeFits.pat i ||| (w &&& ~~~Laws.EncodeFits.mask i) := by
  cases i with
  | write =>
    simp only [Instr.readFrom, encode_write, rowField, colField, minwField, lenField, placeAt_extractLsb', BitVec.or_assoc,
      ← BitVec.and_or_distrib_left, Laws.EncodeFits.pat, Laws.EncodeFits.mask]
    rfl
  | backlight =>
    simp only [Instr.readFrom, encode_backlight, onField, placeAt_extractLsb', Laws.EncodeFits.pat, Laws.EncodeFits.mask]
    rfl
  | init | clear | sync | faultInject => simp [Instr.readFrom, encode, Laws.EncodeFits.pat, Laws.EncodeFits.mask]

/-- Settles O1: the encoded word fits its command's row, and carries the command's operands. -/
theorem decodeEncodeRoundTrip : Obligations.DecodeEncodeRoundTrip := fun i =>
  decode_eq_ok_iff.mpr ⟨i.fits_encode, i.readFrom_encode⟩

/-- Settles O2: the mask fixes every bit that is no operand. -/
theorem encodeDecodeWord : Obligations.EncodeDecodeWord := by
  intro w i h
  obtain ⟨hfits, hread⟩ := decode_eq_ok_iff.mp h
  calc encode i = encode (i.readFrom w) := by rw [hread]
    _ = Laws.EncodeFits.pat i ||| (w &&& ~~~Laws.EncodeFits.mask i) := encode_readFrom i w
    _ = (w &&& Laws.EncodeFits.mask i) ||| (w &&& ~~~Laws.EncodeFits.mask i) := by rw [hfits]
    _ = w := by rw [← BitVec.and_or_distrib_left, BitVec.or_not_self, BitVec.and_allOnes]

/-- Settles O5. -/
theorem sampleWordsDecode : Obligations.SampleWordsDecode := by
  unfold Obligations.SampleWordsDecode
  decide

end Sys2Proof
end

section
/-! Which words are commands and what a rejected word does (R108, O3); the operand fields as numbers and the text of a WRITE
(R109, O4). -/

namespace Sys2Proof.Machine

/-- A command without operands is one word: its mask keeps every bit. -/
theorem eq_of_and_fullMask {w p : Word} (h : w &&& 0xFFFFFFFF = p) : w = p :=
  BitVec.and_allOnes.symm.trans h

/-- The words that decode, by the mask and the match of each OP (R102 to R108). -/
theorem exists_decode_iff (w : Word) : (∃ i, decode w = .ok i) ↔
    (w = 0x10000000 ∨ w &&& 0xFEE000E0 = 0x20000000 ∨ w = 0x30000000 ∨ w &&& 0xFFFFFFFE = 0x40000000
      ∨ w = 0x50000000 ∨ w = 0x60000000) := by
  constructor
  · rintro ⟨i, h⟩
    obtain ⟨hfits, -⟩ := decode_eq_ok_iff.mp h
    cases i with
    | init => exact .inl (eq_of_and_fullMask hfits)
    | write => exact .inr (.inl hfits)
    | clear => exact .inr (.inr (.inl (eq_of_and_fullMask hfits)))
    | backlight => exact .inr (.inr (.inr (.inl hfits)))
    | sync => exact .inr (.inr (.inr (.inr (.inl (eq_of_and_fullMask hfits)))))
    | faultInject => exact .inr (.inr (.inr (.inr (.inr (eq_of_and_fullMask hfits)))))
  · rintro (rfl | h | rfl | h | rfl | rfl)
    · exact ⟨_, decode_init⟩
    · exact ⟨_, Instr.Fits.decode_eq (i := .write 0 0 0 0) h⟩
    · exact ⟨_, decode_clear⟩
    · exact ⟨_, Instr.Fits.decode_eq (i := .backlight 0) h⟩
    · exact ⟨_, decode_sync⟩
    · exact ⟨_, decode_faultInject⟩

theorem decode_error_of_not_ok {w : Word} (h : ¬ ∃ i, decode w = .ok i) : ∃ r, decode w = .error r := by
  cases hd : decode w with
  | ok i => exact absurd ⟨i, hd⟩ h
  | error r => exact ⟨r, rfl⟩

theorem exec_init_of_not_accepts {s : State} (h : s.phase.acceptsInit = false) : exec .init s = .next s.rejectCmd := by
  simp only [exec, execInit, h, Bool.false_eq_true, if_false]

theorem exec_faultInject_of_not_accepts {s : State} (h : s.phase.acceptsInject = false) :
    exec .faultInject s = .next s.rejectCmd := by
  simp only [exec, execFaultInject, h, Bool.false_eq_true, if_false]

/-- Settles O3: the words of the table decode, and every rejection leaves `rejectCmd`. -/
theorem rejectedWords : Obligations.RejectedWords := by
  refine ⟨exists_decode_iff, fun s w hbad => ?_, fun s hp => ?_, fun s hp => ?_⟩
  · obtain ⟨r, hr⟩ := decode_error_of_not_ok (not_exists.mpr hbad)
    exact cmdWrite_of_reject hr s
  · rw [cmdWrite_of_decode decode_init]
    refine exec_init_of_not_accepts ?_
    obtain h | h := hp <;> rw [h] <;> rfl
  · rw [cmdWrite_of_decode decode_faultInject]
    refine exec_faultInject_of_not_accepts ?_
    obtain h | h | h := hp <;> rw [h] <;> rfl

/-- A field as a number: shift the word down, and keep the field's bits. -/
theorem toNat_extractLsb'_eq_div_mod (w : Word) (start len : Nat) :
    (w.extractLsb' start len).toNat = w.toNat / 2 ^ start % 2 ^ len := by
  rw [BitVec.extractLsb'_toNat, Nat.shiftRight_eq_div_pow]

theorem toNat_extractLsb'_zero (w : Word) (len : Nat) : (w.extractLsb' 0 len).toNat = w.toNat % 2 ^ len := by
  rw [toNat_extractLsb'_eq_div_mod, Nat.pow_zero, Nat.div_one]

theorem length_stageText (s : State) (len : BitVec 5) : (s.stageText len).length = min len.toNat 16 := by
  rw [State.stageText, List.length_map, List.length_range, lenEff]

theorem getElem?_stageText {s : State} {len : BitVec 5} {i : Nat} (h : i < min len.toNat 16) :
    (s.stageText len)[i]? = some (s.stageAt i) := by
  rw [State.stageText, List.getElem?_map, List.getElem?_range (show i < lenEff len from h), Option.map_some]

/-- Settles O4: a word that fits a row decodes to the operands it carries. -/
theorem operandFields : Obligations.OperandFields := by
  refine ⟨⟨decode_init, decode_clear, decode_sync, decode_faultInject⟩, fun w h => ?_, fun w h => ?_,
    fun w h1 h2 h3 h4 h5 h6 => ?_, fun s len => ⟨length_stageText s len, fun _ => getElem?_stageText⟩⟩
  · refine ⟨_, _, _, _, Instr.Fits.decode_eq (i := .write 0 0 0 0) h, ?_, ?_, ?_, ?_⟩
    · exact toNat_extractLsb'_eq_div_mod w 24 1
    · exact toNat_extractLsb'_eq_div_mod w 16 5
    · exact toNat_extractLsb'_eq_div_mod w 8 8
    · exact toNat_extractLsb'_zero w 5
  · refine ⟨_, Instr.Fits.decode_eq (i := .backlight 0) h, ?_⟩
    exact toNat_extractLsb'_zero w 1
  · refine decode_error_of_not_ok fun hok => ?_
    simpa only [h1, h2, h3, h4, h5, h6, or_self] using (exists_decode_iff w).mp hok

end Sys2Proof.Machine
end

section
/-! The six host commands (spec/40_host_commands.md): what each answers by PHASE (O7, O8, O12 to O14), the cells WRITE and CLEAR
leave (O9 to O11), STAGE (O21), and RefreshTick with SYNC's count (O31). -/

namespace Sys2Proof.Machine

/-! Acceptance by PHASE (R141, R149, R152). -/

theorem Phase.inLoop_of_ne {p : Phase} (hoff : p ≠ .off) (hinit : p ≠ .init) (hrec : p ≠ .recover) :
    p.inLoop = true := by
  cases p
  case off => exact absurd rfl hoff
  case init => exact absurd rfl hinit
  case recover => exact absurd rfl hrec
  all_goals rfl

/-- How a PHASE meets INIT (R152): it rejects it, has nothing to tear down, or has a running loop. -/
theorem Phase.acceptsInit_cases (p : Phase) : p.acceptsInit = false ∨ p = .off ∨ p.inLoop = true := by
  cases p
  case init | recover => exact .inl rfl
  case off => exact .inr (.inl rfl)
  all_goals exact .inr (.inr rfl)

theorem Phase.inLoop_acceptsInit {p : Phase} (h : p.inLoop = true) : p.acceptsInit = true := by
  cases p <;> simp_all [Phase.inLoop, Phase.acceptsInit]

theorem exec_init_of_off {s : State} (h : s.phase = .off) :
    exec .init s = .next { s with cmdErr := false, phase := .init, waitAt := .initEntry } := by
  simp only [exec, execInit, h, Phase.acceptsInit, Phase.running, if_true, Bool.false_eq_true, if_false]
  rfl

theorem exec_init_of_inLoop {s : State} (h : s.phase.inLoop = true) :
    exec .init s = .next { s.teardown with cmdErr := false, phase := .init, waitAt := .initEntry } := by
  simp only [exec, execInit, Phase.inLoop_acceptsInit h, Phase.inLoop_running h, if_true]
  rfl

theorem exec_faultInject_of_inLoop {s : State} (h : s.phase.inLoop = true) :
    exec .faultInject s = .next { s with cmdErr := false, injPend := true } := by
  simp only [exec, execFaultInject, Phase.acceptsInject, h, if_true]
  rfl

/-- Settles O7. -/
theorem initTakesEffect : Obligations.InitTakesEffect := by
  refine ⟨fun s hoff => exec_init_of_off hoff, fun s hoff hinit hrec => ?_⟩
  rw [exec_init_of_inLoop (Phase.inLoop_of_ne hoff hinit hrec), State.teardown_eq]
  rfl

/-- Settles O8: INIT and FAULT_INJECT by PHASE, the other four in every PHASE. -/
theorem acceptanceTable : Obligations.AcceptanceTable := by
  intro i s
  show (_ → ∃ t, exec i s = .next t ∧ t.cmdErr = false) ∧ (_ → exec i s = .next s.rejectCmd)
  cases i
  case init =>
    cases hp : s.phase
    case off => exact ⟨fun _ => ⟨_, exec_init_of_off hp, rfl⟩, nofun⟩
    case init | recover => exact ⟨nofun, fun _ => exec_init_of_not_accepts (by rw [hp]; rfl)⟩
    all_goals exact ⟨fun _ => ⟨_, exec_init_of_inLoop (by rw [hp]; rfl), rfl⟩, nofun⟩
  case faultInject =>
    cases hp : s.phase
    case off | init | recover => exact ⟨nofun, fun _ => exec_faultInject_of_not_accepts (by rw [hp]; rfl)⟩
    all_goals exact ⟨fun _ => ⟨_, exec_faultInject_of_inLoop (by rw [hp]; rfl), rfl⟩, nofun⟩
  all_goals exact ⟨fun _ => ⟨_, rfl, rfl⟩, nofun⟩

theorem State.statusWord_bl (s : State) : s.statusWord.getLsbD 15 = s.bl := by
  simp only [State.statusWord, getLsbD_append_skip, getLsbD_append_bit, Nat.reduceLeDiff, Nat.reduceSub]

theorem decide_eq_one (b : BitVec 1) : decide (b = 1) = b.getLsbD 0 := by
  revert b
  decide

/-- Settles O12. -/
theorem flagCommandsComplete : Obligations.FlagCommandsComplete := by
  refine ⟨fun on s => ?_, fun s => rfl, fun s hoff hinit hrec =>
    exec_faultInject_of_inLoop (Phase.inLoop_of_ne hoff hinit hrec)⟩
  rw [← decide_eq_one on]
  exact ⟨_, rfl, rfl, State.statusWord_bl _⟩

/-- Settles O13. -/
theorem commandsKeepTransfers : Obligations.CommandsKeepTransfers := by
  intro i s hinit hinject
  cases i
  case init => exact absurd rfl hinit
  case faultInject => exact absurd rfl hinject
  all_goals exact ⟨_, rfl, rfl⟩

/-- Settles O14: the case of the command is the same with any other fault record, for PHASE is the same. -/
theorem commandsIgnoreFaultRecord : Obligations.CommandsIgnoreFaultRecord := by
  intro i s n raw c e
  cases i
  case init =>
    obtain h | h | h := s.phase.acceptsInit_cases
    · exact ⟨_, exec_init_of_not_accepts h, exec_init_of_not_accepts h⟩
    · exact ⟨_, exec_init_of_off h, exec_init_of_off h⟩
    · exact ⟨_, exec_init_of_inLoop h, exec_init_of_inLoop h⟩
  case faultInject =>
    cases h : s.phase.acceptsInject
    · exact ⟨_, exec_faultInject_of_not_accepts h, exec_faultInject_of_not_accepts h⟩
    · exact ⟨_, exec_faultInject_of_inLoop h, exec_faultInject_of_inLoop h⟩
  all_goals exact ⟨_, rfl, rfl⟩

/-! The cells WRITE leaves (R142, R143). -/

theorem cellIdx_inj {r r' c c' : Nat} (hc : c < 16) (hc' : c' < 16) :
    cellIdx r c = cellIdx r' c' ↔ r = r' ∧ c = c' := by
  unfold cellIdx
  omega

/-- The first loop puts its bytes from the cursor's column on, as far as the row goes. -/
theorem read_copyText (row : Nat) (bs : List Byte) (w : WriteCursor) {r c : Nat} (hc : c < 16) :
    Memory.read textBg (copyText row bs w).text (cellIdx r c) =
      if r = row ∧ w.col ≤ c then bs[c - w.col]?.getD (Memory.read textBg w.text (cellIdx r c))
      else Memory.read textBg w.text (cellIdx r c) := by
  induction bs generalizing w with
  | nil => simp [copyText]
  | cons b bs ih =>
    by_cases hw : w.col < 16
    · rw [copyText, if_pos hw, ih]
      simp only [Memory.read_write, cellIdx_inj hc hw]
      by_cases hlt : r = row ∧ w.col + 1 ≤ c
      · have hsub : c - w.col = c - (w.col + 1) + 1 := by omega
        rw [if_pos hlt, if_neg (by omega), if_pos (by omega), hsub, List.getElem?_cons_succ]
      · by_cases heq : r = row ∧ c = w.col
        · rw [if_neg hlt, if_pos heq, if_pos (by omega), heq.2, Nat.sub_self]
          rfl
        · rw [if_neg hlt, if_neg heq, if_neg (by omega)]
    · rw [copyText_beyond row _ w (Nat.not_lt.mp hw), if_neg (by omega)]

/-- The second loop puts `m` blanks from column `col` on, as far as the row goes. -/
theorem read_padText (row : Nat) (text : Memory) (col m : Nat) {r c : Nat} (hc : c < 16) :
    Memory.read textBg (padText row text col m) (cellIdx r c) =
      if r = row ∧ col ≤ c ∧ c < col + m then Config.blank else Memory.read textBg text (cellIdx r c) := by
  induction m generalizing text col with
  | zero => rw [padText, if_neg (by omega)]
  | succ m ih =>
    by_cases hcol : col < 16
    · rw [padText, if_pos hcol, ih]
      simp only [Memory.read_write, cellIdx_inj hc hcol]
      by_cases hlt : r = row ∧ col < c ∧ c < col + (m + 1)
      · rw [if_pos (by omega), if_pos (by omega)]
      · rw [if_neg (by omega)]
        by_cases heq : r = row ∧ c = col
        · rw [if_pos heq, if_pos (by omega)]
        · rw [if_neg heq, if_neg (by omega)]
    · rw [padText, if_neg hcol, if_neg (by omega)]

/-- TEXT after WRITE: the bytes that fit, then the padding, else what was there. -/
theorem read_writeResult (text : Memory) (row col minw : Nat) (bs : List Byte) {r c : Nat} (hc : c < 16) :
    Memory.read textBg (writeResult text row col minw bs) (cellIdx r c) =
      if r = row ∧ col + min bs.length (16 - col) ≤ c ∧
          c < col + min bs.length (16 - col) + (minw - min bs.length (16 - col)) then Config.blank
      else if r = row ∧ col ≤ c then bs[c - col]?.getD (Memory.read textBg text (cellIdx r c))
      else Memory.read textBg text (cellIdx r c) := by
  have hcol : (copyText row bs { text := text, col := col, minw := minw }).col = col + min bs.length (16 - col) := by
    obtain h | h := le_total col 16
    · exact copyText_col row bs _ h
    · rw [copyText_beyond row bs _ h, Nat.sub_eq_zero_of_le h, Nat.min_zero, Nat.add_zero]
  simp only [writeResult, read_padText _ _ _ _ hc, read_copyText _ _ _ hc, hcol, copyText_minw]

theorem getElem?_stageText_of_le {s : State} {len : BitVec 5} {i : Nat} (h : min len.toNat 16 ≤ i) :
    (s.stageText len)[i]? = none :=
  List.getElem?_eq_none (by rwa [length_stageText])

/-- Settles O9: `read_writeResult`, with the staged bytes and the cuts at column 16 (R143). -/
theorem writeClosedForm : Obligations.WriteClosedForm := by
  intro row col minw len s
  refine ⟨_, rfl, rfl, fun r c hc => ?_⟩
  simp only [State.cell, read_writeResult _ _ _ _ _ hc, length_stageText]
  by_cases hrow : r = row.toNat ∧ col.toNat ≤ c
  · obtain ⟨hr, hcol⟩ := hrow
    by_cases htext : c < col.toNat + min (min len.toNat 16) (16 - col.toNat)
    · rw [if_neg (by omega), if_pos ⟨hr, hcol⟩, if_pos ⟨hr, hcol, htext⟩, getElem?_stageText (by omega)]
      rfl
    · have hnot : ¬ (r = row.toNat ∧ col.toNat ≤ c ∧ c < col.toNat + min (min len.toNat 16) (16 - col.toNat)) := by omega
      rw [if_neg hnot]
      refine if_congr (by omega) rfl ?_
      rw [if_pos ⟨hr, hcol⟩, getElem?_stageText_of_le (by omega)]
      rfl
  · rw [if_neg (by omega), if_neg hrow, if_neg (by omega), if_neg (by omega)]

/-! The cells CLEAR leaves (R144). -/

theorem read_clear (text : Memory) {a : Nat} (h : a < Config.textSize) :
    Memory.read textBg (Memory.fill textBg text blanks) a = Config.blank := by
  rw [Memory.read_fill_inside _ _ _ _ (by rwa [blanks, List.length_replicate])]
  exact List.getElem_replicate _

theorem cellIdx_lt {r c : Nat} (hr : r < 2) (hc : c < 16) : cellIdx r c < Config.textSize := by
  unfold cellIdx Config.textSize
  omega

theorem textWord_of_blank {s : State} {r k : Nat} (h : ∀ c, c < 16 → s.cell r c = Config.blank) (hk : k < 4) :
    s.textWord r k = 0x20202020 := by
  rw [State.textWord, h _ (by omega), h _ (by omega), h _ (by omega), h _ (by omega)]
  decide

/-- Settles O10. -/
theorem clearBlanksBothRows : Obligations.ClearBlanksBothRows := by
  refine ⟨decode_clear, fun s => ⟨_, rfl, rfl, fun r c hr hc => ?_, fun r k hr hk => ?_, fun a ha => ?_⟩⟩
  · exact read_clear s.text (cellIdx_lt hr hc)
  · exact textWord_of_blank (fun c hc => read_clear s.text (cellIdx_lt hr hc)) hk
  · exact Memory.read_fill_outside _ _ _ _ ha

/-- A canonical store in which every byte is the background byte lists nothing. -/
theorem Memory.eq_nil_of_read_bg {bg : Byte} {size : Nat} {m : Memory} (h : Memory.wf bg size m = true)
    (hread : ∀ a, a < size → Memory.read bg m a = bg) : m = [] := by
  cases m with
  | nil => rfl
  | cons d rest =>
    obtain ⟨k, b⟩ := d
    simp only [Memory.wf, Memory.wfFrom, Bool.and_eq_true, decide_eq_true_eq] at h
    obtain ⟨⟨⟨-, hk⟩, hb⟩, -⟩ := h
    have hkb : Memory.read bg ((k, b) :: rest) k = b := if_pos rfl
    exact absurd (hkb.symm.trans (hread k hk)) hb

theorem clear_eq_nil {text : Memory} (h : Memory.wf textBg Config.textSize text = true) :
    Memory.fill textBg text blanks = [] :=
  Memory.eq_nil_of_read_bg (Memory.wf_fill _ _ _ _ (by decide) h) fun _ ha => read_clear text ha

/-- Sixteen blanks without text fill a row and leave the other. -/
theorem read_blankRow (text : Memory) (row : Nat) {r c : Nat} (hc : c < 16) :
    Memory.read textBg (writeResult text row 0 16 []) (cellIdx r c) =
      if r = row then Config.blank else Memory.read textBg text (cellIdx r c) := by
  rw [read_writeResult _ _ _ _ _ hc]
  by_cases hr : r = row <;> simp [hr, hc]

theorem blankRows_eq_nil {text : Memory} (h : Memory.wf textBg Config.textSize text = true) :
    writeResult (writeResult text 0 0 16 []) 1 0 16 [] = [] := by
  refine Memory.eq_nil_of_read_bg
    (wf_writeResult _ _ _ _ _ (by decide) (wf_writeResult _ _ _ _ _ (by decide) h)) fun a ha => ?_
  have hidx : a = cellIdx (a / 16) (a % 16) := (Nat.div_add_mod a 16).symm
  have hrow : a / 16 = 1 ∨ a / 16 = 0 := by
    unfold Config.textSize at ha
    omega
  rw [hidx, read_blankRow _ _ (by omega), read_blankRow _ _ (by omega)]
  obtain hr | hr := hrow <;> rw [hr] <;> rfl

theorem exec_write_blankRow (row : BitVec 1) (s : State) : exec (.write row 0 16 0) s =
    .next { s with cmdErr := false, text := writeResult s.text row.toNat 0 16 [] } := rfl

/-- Settles O11: both ways TEXT's canonical form lists nothing. -/
theorem clearEqualsTwoWrites : Obligations.ClearEqualsTwoWrites := by
  intro s h
  refine ⟨_, _, exec_write_blankRow 0 s, exec_write_blankRow 1 _, ?_⟩
  have htext : Memory.fill textBg s.text blanks = writeResult (writeResult s.text 0 0 16 []) 1 0 16 [] :=
    (clear_eq_nil h).trans (blankRows_eq_nil h).symm
  exact congrArg (fun m => Host.Outcome.next { s with cmdErr := false, text := m }) htext

/-! STAGE (R151). -/

theorem wordOfLanes_extractLsb' (v : Word) :
    wordOfLanes (v.extractLsb' 0 8) (v.extractLsb' 8 8) (v.extractLsb' 16 8) (v.extractLsb' 24 8) = v := by
  unfold wordOfLanes
  rw [BitVec.extractLsb'_append_extractLsb'_eq_extractLsb' (show 24 = 16 + 8 from rfl),
    BitVec.extractLsb'_append_extractLsb'_eq_extractLsb' (show 16 = 8 + 8 from rfl),
    BitVec.extractLsb'_append_extractLsb'_eq_extractLsb' (show 8 = 0 + 8 from rfl)]
  exact BitVec.extractLsb'_eq_self

theorem stageAt_stageWrite_lane (s : State) (k : Nat) (v : Word) {j : Nat} (hj : j < 4) :
    (s.stageWrite k v).stageAt (4 * k + j) = v.extractLsb' (8 * j) 8 := by
  simp only [State.stageAt, State.stageWrite, Memory.read_write]
  interval_cases j <;> simp

theorem stageAt_stageWrite_outside (s : State) (k : Nat) (v : Word) {i : Nat} (hi : i < 4 * k ∨ 4 * k + 4 ≤ i) :
    (s.stageWrite k v).stageAt i = s.stageAt i := by
  simp only [State.stageAt, State.stageWrite, Memory.read_write]
  rw [if_neg (by omega), if_neg (by omega), if_neg (by omega), if_neg (by omega)]

theorem stageWord_stageWrite (s : State) (k : Nat) (v : Word) : (s.stageWrite k v).stageWord k = v := by
  have lane {j : Nat} (hj : j < 4) := stageAt_stageWrite_lane s k v hj
  have lane0 : (s.stageWrite k v).stageAt (4 * k) = v.extractLsb' 0 8 := lane (j := 0) (by decide)
  rw [State.stageWord, lane0, lane (by decide), lane (by decide), lane (by decide)]
  exact wordOfLanes_extractLsb' v

/-- Settles O21. -/
theorem stageRegister : Obligations.StageRegister := fun s k v _ =>
  ⟨_, rfl, rfl, stageWord_stageWrite s k v, fun _ => stageAt_stageWrite_lane s k v,
    fun _ => stageAt_stageWrite_outside s k v⟩

/-! RefreshTick and SYNC's count (R146, R147, R396). -/

/-- Settles O31. -/
theorem refreshTickCounts : Obligations.RefreshTickCounts := by
  refine ⟨fun s => ⟨rfl, ?_, fun hbusy => ?_, fun hbusy => ?_⟩, fun s t h => ?_⟩
  · rw [State.refreshTick_refreshCount, BitVec.toNat_add]
    rfl
  · rw [State.refreshTick_syncSeen, State.refreshTick_syncBusy, hbusy]
    exact ⟨rfl, rfl⟩
  · rw [State.refreshTick_syncSeen, State.refreshTick_syncBusy, hbusy]
    exact ⟨rfl, rfl⟩
  · cases h
    exact ⟨rfl, rfl, rfl, rfl⟩

end Sys2Proof.Machine
end

section
/-! The INIT procedure stretch by stretch (spec/41_discovery_recovery.md): the recovery pulse (O45), the floating check
(O46), the synchronous transfer (O48) and its bounded wait (O49), classification (O50) and the bring-up (O51). -/

namespace Sys2Proof.Machine

/-! A delay (R12) holds until it is over; then the stretch after it runs. -/

theorem State.seqTurn_delay_holds {s t : State} (hp : s.phase = .init ∨ s.phase = .recover)
    (h : s.seqProc = if s.delayOver then t else s) (hd : s.now < s.delayEnd) : s.seqTurn = s := by
  rw [State.seqTurn_proc hp, h, if_neg]
  rw [State.delayOver_iff]
  omega

theorem State.seqTurn_delay_over {s t : State} (hp : s.phase = .init ∨ s.phase = .recover)
    (h : s.seqProc = if s.delayOver then t else s) (hd : s.delayEnd ≤ s.now) : s.seqTurn = t := by
  rw [State.seqTurn_proc hp, h, if_pos (s.delayOver_iff.mpr hd)]

/-! LoopStart (R285). -/

theorem State.loopStart_arms (s : State) : s.loopStart.phase = .waitSb ∧ s.loopStart.evtEn = true ∧
    s.loopStart.errEn = true ∧ s.loopStart.wdtArmed = true ∧ s.loopStart.chEn = true :=
  ⟨rfl, rfl, rfl, rfl, rfl⟩

/-- LoopStart requests a START and leaves the trace and INIT's results alone. -/
theorem State.loopStart_keeps (s : State) : s.loopStart.wire = s.wire ∧
    s.loopStart.link = { s.link with startReq := true } ∧ s.loopStart.initFailed = s.initFailed ∧
    s.loopStart.busDead = s.busDead := by
  by_cases hm : s.mode = .oled
  · rw [s.loopStart_oled hm]
    exact ⟨rfl, rfl, rfl, rfl⟩
  · rw [s.loopStart_lcd hm]
    exact ⟨rfl, rfl, rfl, rfl⟩

/-! The recovery pulse and the re-check (R184, R185). -/

theorem State.bringRun_tries (u : State) : u.bringRun.tries = u.tries := by
  have h := u.bringRun_bringsUp
  unfold State.BringsUp at h
  split at h
  · rw [h]
  · rw [h]
  · rw [h]
    by_cases hm : u.mode = .oled
    · rw [u.loopStart_oled hm]
    · rw [u.loopStart_lcd hm]

theorem State.wedgeRecheck_again {s : State} (h : s.wedged = true) (hn : s.tries + 1 < s.params.recoverTries) :
    s.wedgeRecheck = { s with
      tries := s.tries + 1, sdaLvl := false
      istep := .recoverPulse, delayEnd := s.now + s.params.tBb, waitAt := .pulseDataLow } := by
  have hw : State.wedged { s with tries := s.tries + 1 } = true := h
  simp only [State.wedgeRecheck, if_pos hw, if_pos hn]
  rfl

theorem State.wedgeRecheck_stuck {s : State} (h : s.wedged = true) (hn : s.params.recoverTries ≤ s.tries + 1) :
    s.wedgeRecheck = State.afterWedge { s with tries := s.tries + 1, wedgeStuck := true } := by
  have hw : State.wedged { s with tries := s.tries + 1 } = true := h
  simp only [State.wedgeRecheck, if_pos hw, if_neg (Nat.not_lt.mpr hn)]

theorem State.wedgeRecheck_clear {s : State} (h : ¬ s.wedged = true) :
    s.wedgeRecheck = State.afterWedge { s with tries := s.tries + 1 } := by
  have hw : ¬ State.wedged { s with tries := s.tries + 1 } = true := h
  simp only [State.wedgeRecheck, if_neg hw]

/-- How the procedure goes on after the wedge check: to the floating check on a first discovery (R186), on a re-run to the
bring-up's first step on the configured link (R188, R196, R200). -/
theorem State.afterWedge_goesOn (s : State) :
    s.afterWedge.wedgeStuck = s.wedgeStuck ∧ s.afterWedge.tries = s.tries ∧
    (s.devAddr = 0 → s.afterWedge = { s with
      sclMode := .pdIn, sdaMode := .pdIn, istep := .float
      delayEnd := s.now + s.params.tSettle, waitAt := .floatSettle }) ∧
    (s.devAddr ≠ 0 → s.afterWedge.sclMode = .alt ∧ State.BringsUp { s with
      sclMode := .alt, sdaMode := .alt
      wire := s.wire ++ abortTrace s.link.opn
      link := { Link.reset with speed := if s.mode = .oled then .fast else .std, en := true }
      istep := .bringUp, bstep := 0 } s.afterWedge) := by
  by_cases h0 : s.devAddr = 0
  · rw [s.afterWedge_first h0]
    exact ⟨rfl, rfl, fun _ => rfl, absurd h0⟩
  · rw [s.afterWedge_rerun h0]
    obtain ⟨-, hstuck, hscl, -, -⟩ := State.bringRun_keeps { s with
      sclMode := .alt, sdaMode := .alt
      wire := s.wire ++ abortTrace s.link.opn
      link := { Link.reset with speed := if s.mode = .oled then .fast else .std, en := true }
      istep := .bringUp, bstep := 0 }
    exact ⟨hstuck, State.bringRun_tries _, fun h => absurd h h0, fun _ => ⟨hscl, State.bringRun_bringsUp _⟩⟩

/-- Settles O45. -/
theorem recoveryPulse : Obligations.RecoveryPulse := by
  refine ⟨fun s hp hw hd => ?_, fun s hp hd => ⟨fun hw => ?_, fun hw => ?_, fun hw => ?_, fun hw hscl hsda hn => ?_,
    fun hw hscl hsda hn => ?_, fun hw hlines => ?_⟩⟩
  · obtain hw | hw | hw | hw := hw
    · exact State.seqTurn_delay_holds (.inl hp) (State.seqProc_pulseDataLow hw) hd
    · exact State.seqTurn_delay_holds (.inl hp) (State.seqProc_pulseClockLow hw) hd
    · exact State.seqTurn_delay_holds (.inl hp) (State.seqProc_pulseClockHigh hw) hd
    · exact State.seqTurn_delay_holds (.inl hp) (State.seqProc_pulseDataHigh hw) hd
  · exact State.seqTurn_delay_over (.inl hp) (State.seqProc_pulseDataLow hw) hd
  · exact State.seqTurn_delay_over (.inl hp) (State.seqProc_pulseClockLow hw) hd
  · exact State.seqTurn_delay_over (.inl hp) (State.seqProc_pulseClockHigh hw) hd
  · rw [State.seqTurn_delay_over (.inl hp) (State.seqProc_pulseDataHigh hw) hd,
      State.wedgeRecheck_again (s.wedged_iff.mpr ⟨hscl, hsda⟩) hn]
  · rw [State.seqTurn_delay_over (.inl hp) (State.seqProc_pulseDataHigh hw) hd,
      State.wedgeRecheck_stuck (s.wedged_iff.mpr ⟨hscl, hsda⟩) hn]
    exact State.afterWedge_goesOn { s with tries := s.tries + 1, wedgeStuck := true }
  · have hclear : ¬ s.wedged = true := fun h => by
      obtain ⟨hscl, hsda⟩ := s.wedged_iff.mp h
      simp [hscl, hsda] at hlines
    rw [State.seqTurn_delay_over (.inl hp) (State.seqProc_pulseDataHigh hw) hd, State.wedgeRecheck_clear hclear]
    exact State.afterWedge_goesOn { s with tries := s.tries + 1 }

/-! Probing (R191, R192) and the floating check (R186, R187). -/

theorem State.probeNext_nil {s : State} (h : s.probeRest = []) : s.probeNext = s.failInit .deviceNotFound := by
  simp only [State.probeNext, h]

theorem State.probeNext_cons {s : State} {a : BitVec 7} {rest : List (BitVec 7)} (h : s.probeRest = a :: rest) :
    s.probeNext = { s with
      link := { s.link with startReq := true }
      probeA := a, probeRest := rest, txAddr := a, txBytes := [], txSpeed := s.link.speed
      w0 := s.now, waitAt := .txSb } := by
  simp only [State.probeNext, h]
  rfl

theorem State.floatSample_low {s : State} (h : s.sclIn = false ∨ s.sdaIn = false) :
    s.floatSample = s.failInit .busWiring := by
  rw [State.floatSample, if_neg]
  obtain h | h := h <;> simp [h]

theorem State.floatSample_high {s : State} (hscl : s.sclIn = true) (hsda : s.sdaIn = true) :
    s.floatSample = s.configureLink.probeStart := by
  rw [State.floatSample, hscl, hsda]
  rfl

/-- Settles O46. -/
theorem floatCheck : Obligations.FloatCheck := by
  refine ⟨fun s hp hw hd => ?_, fun s hp hw hd hlow => ?_, fun s a rest hp hw hd hscl hsda horder => ?_⟩
  · exact State.seqTurn_delay_holds (.inl hp) (State.seqProc_floatSettle hw) hd
  · rw [State.seqTurn_delay_over (.inl hp) (State.seqProc_floatSettle hw) hd, State.floatSample_low hlow,
      State.failInit_eq]
    rfl
  · rw [State.seqTurn_delay_over (.inl hp) (State.seqProc_floatSettle hw) hd, State.floatSample_high hscl hsda,
      State.configureLink_eq, State.probeStart, State.probeNext_cons horder]
    rfl

/-! The synchronous transfer (R197). -/

theorem addrByte_eq_append (a : BitVec 7) : addrByte a = a ++ (0 : BitVec 1) := by
  revert a
  decide

theorem State.txGotAddr_bytes {s : State} (h : s.txBytes ≠ []) : s.txGotAddr = s.lClrAddr.beginWait .txTxe := by
  obtain ⟨b, bs, h⟩ := List.exists_cons_of_ne_nil h
  simp only [State.txGotAddr, h]

theorem State.txGotAddr_nil {s : State} (h : s.txBytes = []) : s.txGotAddr = s.lClrAddr.txSendStop := by
  simp only [State.txGotAddr, h]

theorem State.txGotTxe_cons {s : State} {b : Byte} {bs : List Byte} (h : s.txBytes = b :: bs) : s.txGotTxe = { s with
    link := { s.link with q := s.link.q ++ [b] }, txBytes := bs
    w0 := s.now, waitAt := if bs = [] then .txBtf else .txTxe } := by
  simp only [State.txGotTxe, h]
  split <;> rfl

/-- Settles O48: each wait's condition holds, so the stretch after it runs whatever the link's error bits show (R189). -/
theorem syncTransfer : Obligations.SyncTransfer := by
  refine fun s hp => ⟨fun hw hsb => ?_, fun hw haddr hb => ?_, fun hw haddr hb => ?_, fun b bs hw hdata hq hb => ?_,
    fun hw hdata hq hsent => ?_⟩
  · rw [State.seqTurn_proc hp, State.seqProc_txSb hw, State.txWait_ok hsb, ← addrByte_eq_append]
    rfl
  · rw [State.seqTurn_proc hp, State.seqProc_txAddr hw, State.txWait_ok haddr, State.txGotAddr_bytes hb]
    rfl
  · rw [State.seqTurn_proc hp, State.seqProc_txAddr hw, State.txWait_ok haddr, State.txGotAddr_nil hb]
    rfl
  · have htxe : s.link.txe = true := by simp [Link.txe, hdata, hq]
    rw [State.seqTurn_proc hp, State.seqProc_txTxe hw, State.txWait_ok htxe, State.txGotTxe_cons hb]
  · have hbtf : s.link.btf = true := by simp [Link.btf, hdata, hq, hsent]
    rw [State.seqTurn_proc hp, State.seqProc_txBtf hw, State.txWait_ok hbtf]
    rfl

/-! The bounded wait (R189) whose condition does not hold. -/

/-- SEQ waits in a transfer for a condition that the link does not show. -/
def State.TxUnmet (s : State) : Prop :=
  (s.waitAt = .txSb ∧ s.link.sb = false) ∨ (s.waitAt = .txAddr ∧ s.link.addr = false) ∨
    (s.waitAt = .txTxe ∧ s.link.txe = false) ∨ (s.waitAt = .txBtf ∧ s.link.btf = false) ∨
    (s.waitAt = .txStop ∧ s.link.stopBusy = true)

theorem State.TxUnmet.seqProc_eq {s : State} (h : s.TxUnmet) : ∃ go, s.seqProc = s.txWait false go := by
  obtain ⟨hw, hc⟩ | ⟨hw, hc⟩ | ⟨hw, hc⟩ | ⟨hw, hc⟩ | ⟨hw, hc⟩ := h
  · exact ⟨_, by rw [State.seqProc_txSb hw, hc]⟩
  · exact ⟨_, by rw [State.seqProc_txAddr hw, hc]⟩
  · exact ⟨_, by rw [State.seqProc_txTxe hw, hc]⟩
  · exact ⟨_, by rw [State.seqProc_txBtf hw, hc]⟩
  · exact ⟨_, by rw [State.seqProc_txStop hw, hc, Bool.not_true]⟩

section
variable {s : State} (hp : s.phase = .init ∨ s.phase = .recover) (h : s.TxUnmet)
include hp h

theorem State.TxUnmet.waits (he : s.link.err = 0) (ht : s.now - s.w0 ≤ s.params.tWait) : s.seqTurn = s := by
  obtain ⟨go, hgo⟩ := h.seqProc_eq
  have hc : s.waitCheck false = none := by simp [State.waitCheck, he, Nat.not_lt.mpr ht]
  rw [State.seqTurn_proc hp, hgo, State.txWait, hc]

/-- An error is cleared and aborts the transfer (R190). -/
theorem State.TxUnmet.errs (he : s.link.err ≠ 0) : s.seqTurn = s.abortTx.txDone .err := by
  obtain ⟨go, hgo⟩ := h.seqProc_eq
  rw [State.seqTurn_proc hp, hgo, State.txWait, (s.waitCheck_err false).mpr ⟨rfl, he⟩, ← s.errAbort_eq]

theorem State.TxUnmet.timesOut (he : s.link.err = 0) (ht : s.params.tWait < s.now - s.w0) :
    s.seqTurn = s.abortTx.txDone .timeout := by
  obtain ⟨go, hgo⟩ := h.seqProc_eq
  rw [State.seqTurn_proc hp, hgo, State.txWait, (s.waitCheck_timeout false).mpr ⟨rfl, he, ht⟩]

/-- A transfer of the bring-up that fails either way skips the rest of the list (R198). -/
theorem State.TxUnmet.skipsBringUp (hi : s.istep ≠ .probe)
    (hf : s.link.err ≠ 0 ∨ s.params.tWait < s.now - s.w0) : s.seqTurn = s.abortTx.loopStart := by
  have hi : s.abortTx.istep ≠ .probe := hi
  by_cases he : s.link.err = 0
  · rw [State.TxUnmet.timesOut hp h he (hf.resolve_left (not_not.mpr he)), State.txDone, if_neg hi]
  · rw [State.TxUnmet.errs hp h he, State.txDone, if_neg hi]

end

/-- The failure of INIT after an abort (R190, R187): the second link reset finds no transaction open, so W gains one X at
most. -/
theorem State.abortTx_failInit_eq (s : State) (c : FailCause) : s.abortTx.failInit c = { s with
    wire := s.wire ++ abortTrace s.link.opn
    link := { Link.reset with speed := s.txSpeed }
    sclMode := .puIn, sdaMode := .puIn, initFailed := true, failCause := c
    phase := .off, istep := .fail, waitAt := .idle } := by
  rw [State.failInit_eq, State.abortTx_eq]
  simp [abortTrace, Link.cleared, Link.reset]

/-- Settles O49. -/
theorem boundedWait : Obligations.BoundedWait := by
  intro s hp (hu : s.TxUnmet)
  refine ⟨State.TxUnmet.waits hp hu, fun hi he ht => ?_, fun hi he hr => ?_, fun a rest hi he hr => ?_,
    fun hi hf => ?_⟩
  · have hi : s.abortTx.istep = .probe := hi
    rw [State.TxUnmet.timesOut hp hu he ht, State.txDone, if_pos hi]
    exact State.abortTx_failInit_eq { s with busDead := true } .deviceNotFound
  · have hi : s.abortTx.istep = .probe := hi
    have hr : s.abortTx.probeRest = [] := hr
    rw [State.TxUnmet.errs hp hu he, State.txDone, if_pos hi]
    exact (State.probeNext_nil hr).trans (s.abortTx_failInit_eq .deviceNotFound)
  · have hi : s.abortTx.istep = .probe := hi
    have hr : s.abortTx.probeRest = a :: rest := hr
    rw [State.TxUnmet.errs hp hu he, State.txDone, if_pos hi]
    refine (State.probeNext_cons hr).trans ?_
    rw [State.abortTx_eq]
    rfl
  · rw [State.TxUnmet.skipsBringUp hp hu hi hf]
    obtain ⟨hphase, hevt, herr, -, -⟩ := s.abortTx.loopStart_arms
    obtain ⟨hwire, hlink, hfailed, hdead⟩ := s.abortTx.loopStart_keeps
    exact ⟨hphase, hevt, herr, hwire, hlink, hfailed, hdead, s.abortTx.loopStart_devAddr,
      congrArg State.loopStart s.abortTx_eq⟩

/-! Classification (R195) and the bring-up (R198, R199). -/

theorem State.seqTurn_txStop_done {s : State} (hp : s.phase = .init ∨ s.phase = .recover) (hw : s.waitAt = .txStop)
    (hb : s.link.stopBusy = false) : s.seqTurn = s.txDone .ok := by
  rw [State.seqTurn_proc hp, State.seqProc_txStop hw, State.txWait_ok (by rw [hb]; rfl)]

/-- Settles O50: the completed probe's address is not 0, so it is the device's. -/
theorem classification : Obligations.Classification := by
  intro s hp hi hw hb ha
  rw [State.seqTurn_txStop_done (.inl hp) hw hb, State.txDone, if_pos hi]
  simp only [if_neg ha]
  rw [s.classify_eq ha]
  exact State.bringRun_bringsUp _

/-- After a transfer or a delay of the bring-up the next step of the list runs (R198). -/
theorem State.seqTurn_bringNext {s : State} (hp : s.phase = .init ∨ s.phase = .recover) (hi : s.istep ≠ .probe)
    (hdone : (s.waitAt = .txStop ∧ s.link.stopBusy = false) ∨ (s.waitAt = .bringDelay ∧ s.delayEnd ≤ s.now)) :
    s.seqTurn = s.bringNext := by
  obtain ⟨hw, hb⟩ | ⟨hw, hd⟩ := hdone
  · rw [State.seqTurn_txStop_done hp hw hb, State.txDone, if_neg hi]
  · exact State.seqTurn_delay_over hp (State.seqProc_bringDelay hw) hd

theorem State.bringRun_tx {u : State} {items : List BringItem} (h : u.bringSteps[u.bstep]? = some (.tx items)) :
    u.bringRun = { u with
      link := { u.link with startReq := true }
      txAddr := u.devAddr, txBytes := bringBytes u.bl items, txSpeed := u.link.speed
      w0 := u.now, waitAt := .txSb } := by
  simp only [State.bringRun, h]
  rfl

theorem State.bringRun_delay {u : State} {n : Nat} (h : u.bringSteps[u.bstep]? = some (.delay n)) :
    u.bringRun = { u with delayEnd := u.now + n, waitAt := .bringDelay } := by
  simp only [State.bringRun, h]
  rfl

theorem State.bringRun_end {u : State} (h : u.bringSteps[u.bstep]? = none) : u.bringRun = u.loopStart := by
  simp only [State.bringRun, h]

/-- Settles O51. -/
theorem bringUp : Obligations.BringUp := by
  refine ⟨fun s hp hi hdone => ?_, fun s hp hw hd => ?_, fun s hp hw => ?_⟩
  · rw [State.seqTurn_bringNext hp hi hdone]
    refine ⟨fun items hl => State.bringRun_tx (u := { s with bstep := s.bstep + 1 }) hl,
      fun n hl => State.bringRun_delay (u := { s with bstep := s.bstep + 1 }) hl, fun hl => ?_⟩
    have heq : s.bringNext = State.loopStart { s with bstep := s.bstep + 1 } := State.bringRun_end hl
    rw [heq]
    obtain ⟨hphase, -, -, harmed, hen⟩ := State.loopStart_arms { s with bstep := s.bstep + 1 }
    obtain ⟨-, -, hfailed, -⟩ := State.loopStart_keeps { s with bstep := s.bstep + 1 }
    exact ⟨hphase, hfailed, State.loopStart_devAddr _, harmed, hen, rfl⟩
  · exact State.seqTurn_delay_holds hp (State.seqProc_bringDelay hw) hd
  · rw [State.seqTurn_proc (.inr hp), State.seqProc_recoverEntry hw]
    exact State.bringRun_bringsUp _

end Sys2Proof.Machine
end

section
/-! How a SEQ step in INIT can end (O52): each stretch stays in INIT, starts the loop, or fails INIT, and it fails only in
a first discovery (R200). -/

namespace Sys2Proof.Machine

/-- Where a stretch of the INIT procedure that begins in `s` may lead. BUS_DEAD is written in a first discovery only
(R191). -/
inductive State.InitLeads (s : State) : State → Prop
  | stays {t : State} (phase : t.phase = .init) (dead : s.devAddr ≠ 0 → t.busDead = s.busDead) : s.InitLeads t
  | starts {u : State} (failed : u.initFailed = s.initFailed) (dead : s.devAddr ≠ 0 → u.busDead = s.busDead) :
      s.InitLeads u.loopStart
  | fails {u : State} {c : FailCause} (cause : c ≠ .none) (first : s.devAddr = 0) (device : u.devAddr = 0) :
      s.InitLeads (u.failInit c)

theorem State.InitLeads.bringRun {s u : State} (hp : u.phase = .init) (hf : u.initFailed = s.initFailed)
    (hd : s.devAddr ≠ 0 → u.busDead = s.busDead) : s.InitLeads u.bringRun := by
  have h := u.bringRun_bringsUp
  unfold State.BringsUp at h
  split at h
  · rw [h]
    exact .stays hp hd
  · rw [h]
    exact .stays hp hd
  · rw [h]
    exact .starts hf hd

theorem State.InitLeads.probeNext {s u : State} (hp : u.phase = .init) (hs : s.devAddr = 0) (hu : u.devAddr = 0) :
    s.InitLeads u.probeNext := by
  unfold State.probeNext
  split
  · exact .fails nofun hs hu
  · exact .stays hp (absurd hs)

theorem State.InitLeads.afterWedge {s u : State} (hp : u.phase = .init) (hf : u.initFailed = s.initFailed)
    (hd : u.busDead = s.busDead) : s.InitLeads u.afterWedge := by
  by_cases h0 : u.devAddr = 0
  · rw [u.afterWedge_first h0]
    exact .stays hp fun _ => hd
  · rw [u.afterWedge_rerun h0]
    exact .bringRun hp hf fun _ => hd

theorem State.InitLeads.wedgeSample {s : State} (hp : s.phase = .init) : s.InitLeads s.wedgeSample := by
  unfold State.wedgeSample
  split
  · exact .stays hp fun _ => rfl
  · exact .afterWedge hp rfl rfl

theorem State.InitLeads.wedgeRecheck {s : State} (hp : s.phase = .init) : s.InitLeads s.wedgeRecheck := by
  by_cases hw : s.wedged = true
  · by_cases hn : s.tries + 1 < s.params.recoverTries
    · rw [State.wedgeRecheck_again hw hn]
      exact .stays hp fun _ => rfl
    · rw [State.wedgeRecheck_stuck hw (Nat.not_lt.mp hn)]
      exact .afterWedge (u := { s with tries := s.tries + 1, wedgeStuck := true }) hp rfl rfl
  · rw [State.wedgeRecheck_clear hw]
    exact .afterWedge (u := { s with tries := s.tries + 1 }) hp rfl rfl

theorem State.InitLeads.floatSample {s : State} (hp : s.phase = .init) (h0 : s.devAddr = 0) :
    s.InitLeads s.floatSample := by
  unfold State.floatSample
  split
  · exact .probeNext hp h0 h0
  · exact .fails nofun h0 h0

/-- A transfer has ended, in the state `u` that it or its abort leaves. -/
theorem State.InitLeads.txDone {s u : State} (hu : u.Transfers) (hp : u.phase = .init) (hdev : u.devAddr = s.devAddr)
    (hf : u.initFailed = s.initFailed) (hd : u.busDead = s.busDead) (r : WaitResult) : s.InitLeads (u.txDone r) := by
  unfold State.txDone
  obtain ⟨-, h0, hi⟩ | ⟨-, -, hi⟩ := hu
  · have hs : s.devAddr = 0 := hdev.symm.trans h0
    rw [if_pos hi]
    cases r
    case ok =>
      dsimp only
      split
      · exact .fails nofun hs h0
      · rename_i ha
        rw [u.classify_eq ha]
        exact .bringRun hp hf fun _ => hd
    case err => exact .probeNext hp hs h0
    case timeout => exact .fails nofun hs h0
  · rw [if_neg hi]
    cases r
    case ok => exact .bringRun hp hf fun _ => hd
    all_goals exact .starts hf fun _ => hd

theorem State.Transfers.abortTx {s : State} (h : s.Transfers) : s.abortTx.Transfers := by
  rw [s.abortTx_eq]
  exact h

theorem State.InitLeads.txWait {s : State} {c : Bool} {go : State → State} (ht : s.Transfers) (hp : s.phase = .init)
    (hgo : s.InitLeads (go s)) : s.InitLeads (s.txWait c go) := by
  unfold State.txWait
  split
  · exact .stays hp fun _ => rfl
  · exact hgo
  · rw [s.errAbort_eq]
    exact .txDone (s := s) ht.abortTx hp rfl rfl rfl _
  · exact .txDone (s := s) ht.abortTx hp rfl rfl rfl _

theorem State.InitLeads.delay {s t : State} (hp : s.phase = .init) (ht : s.InitLeads t) :
    s.InitLeads (if s.delayOver then t else s) := by
  split
  · exact ht
  · exact .stays hp fun _ => rfl

theorem State.txGotAddr_keeps (s : State) : s.txGotAddr.phase = s.phase ∧ s.txGotAddr.busDead = s.busDead := by
  unfold State.txGotAddr
  split <;> exact ⟨rfl, rfl⟩

theorem State.txGotTxe_keeps (s : State) : s.txGotTxe.phase = s.phase ∧ s.txGotTxe.busDead = s.busDead := by
  unfold State.txGotTxe
  split
  · exact ⟨rfl, rfl⟩
  · dsimp only
    split <;> exact ⟨rfl, rfl⟩

theorem Inv.seqProc_initLeads {s : State} (h : Inv s) (hp : s.phase = .init) : s.InitLeads s.seqProc := by
  have transfers (hw : s.waitAt.inTx = true) : s.Transfers := h.transfers (.inl hp) hw
  have same {t : State} (hphase : t.phase = s.phase) (hdead : t.busDead = s.busDead) : s.InitLeads t :=
    .stays (hphase.trans hp) fun _ => hdead
  cases hw : s.waitAt
  case idle =>
    rw [State.seqProc, hw]
    exact same rfl rfl
  case initEntry =>
    rw [State.seqProc_initEntry hw]
    exact same rfl rfl
  case wedgeSettle =>
    rw [State.seqProc_wedgeSettle hw]
    exact .delay hp (.wedgeSample hp)
  case pulseDataLow =>
    rw [State.seqProc_pulseDataLow hw]
    exact .delay hp (same rfl rfl)
  case pulseClockLow =>
    rw [State.seqProc_pulseClockLow hw]
    exact .delay hp (same rfl rfl)
  case pulseClockHigh =>
    rw [State.seqProc_pulseClockHigh hw]
    exact .delay hp (same rfl rfl)
  case pulseDataHigh =>
    rw [State.seqProc_pulseDataHigh hw]
    exact .delay hp (.wedgeRecheck hp)
  case floatSettle =>
    rw [State.seqProc_floatSettle hw]
    exact .delay hp (.floatSample hp (h.discoveryDev hp (State.inDiscovery_of_float hw)))
  case recoverEntry => exact absurd hw (h.initAt hp)
  case bringDelay =>
    rw [State.seqProc_bringDelay hw]
    exact .delay hp (.bringRun hp rfl fun _ => rfl)
  case txSb =>
    rw [State.seqProc_txSb hw]
    exact .txWait (transfers (by rw [hw]; rfl)) hp (same rfl rfl)
  case txAddr =>
    obtain ⟨hphase, hdead⟩ := s.txGotAddr_keeps
    rw [State.seqProc_txAddr hw]
    exact .txWait (transfers (by rw [hw]; rfl)) hp (same hphase hdead)
  case txTxe =>
    obtain ⟨hphase, hdead⟩ := s.txGotTxe_keeps
    rw [State.seqProc_txTxe hw]
    exact .txWait (transfers (by rw [hw]; rfl)) hp (same hphase hdead)
  case txBtf =>
    rw [State.seqProc_txBtf hw]
    exact .txWait (transfers (by rw [hw]; rfl)) hp (same rfl rfl)
  case txStop =>
    have ht := transfers (by rw [hw]; rfl)
    rw [State.seqProc_txStop hw]
    exact .txWait ht hp (.txDone ht hp rfl rfl rfl .ok)

/-- A re-run keeps its device: DEV_ADDR is written only at the end of a first discovery's probe (R28). -/
theorem Inv.seqTurn_devAddr_rerun {s : State} (h : Inv s) (hd : s.devAddr ≠ 0) : s.seqTurn.devAddr = s.devAddr :=
  s.seqTurn_devAddr.resolve_right fun ⟨hp, hi, hw, _⟩ => hd (h.probe_done hp hi hw).2

/-- Settles O52: the cases of `InitLeads`; that a started loop has a device is Inv of the state after the step. -/
theorem initOutcomes : Obligations.InitOutcomes := by
  intro s hinv hp
  have hleads : s.InitLeads s.seqTurn := by
    rw [State.seqTurn_proc (.inl hp)]
    exact hinv.seqProc_initLeads hp
  have hdev := hinv.seqTurn_devAddr_rerun
  have hrun := hinv.seqTurn.runningDev
  generalize s.seqTurn = t at hleads hdev hrun ⊢
  cases hleads with
  | stays phase dead => exact ⟨.inl phase, fun hd => ⟨by rw [phase]; nofun, hdev hd, dead hd⟩⟩
  | @starts u failed dead =>
    obtain ⟨-, -, hfailed, hdead⟩ := u.loopStart_keeps
    exact ⟨.inr (.inl ⟨rfl, hrun rfl, hfailed.trans failed⟩), fun hd => ⟨nofun, hdev hd, hdead.trans (dead hd)⟩⟩
  | fails cause first device =>
    rw [State.failInit_eq]
    exact ⟨.inr (.inr ⟨rfl, rfl, cause, device, rfl, rfl⟩), absurd first⟩

end Sys2Proof.Machine
end

section
/-! Decode6 and emit8 are inverse to each other (O26): an expander byte is a nibble of data over the control bits, and
Decode6 reads the two parts apart. -/

namespace Sys2Proof.Machine

/-! A byte by its two nibbles. -/

theorem toNat_and_F0 (b : Byte) : (b &&& (0xF0 : Byte)).toNat = 16 * (b.toNat / 16) := by
  have hmask : b &&& (0xF0 : Byte) = (b >>> 4) <<< 4 := (BitVec.shiftLeft_ushiftRight (x := b) (n := 4)).symm
  have := b.isLt
  rw [hmask, BitVec.toNat_shiftLeft, BitVec.toNat_ushiftRight, Nat.shiftLeft_eq, Nat.shiftRight_eq_div_pow]
  omega

theorem toNat_shiftLeft_and_F0 (b : Byte) : ((b <<< 4) &&& (0xF0 : Byte)).toNat = 16 * (b.toNat % 16) := by
  rw [toNat_and_F0, BitVec.toNat_shiftLeft, Nat.shiftLeft_eq]
  omega

theorem nibbles_or (b : Byte) : (b &&& (0xF0 : Byte)) ||| (b &&& (0x0F : Byte)) = b := by
  rw [← BitVec.and_or_distrib_left]
  exact BitVec.and_allOnes

theorem eq_iff_nibbles (a b : Byte) :
    a = b ↔ a &&& (0xF0 : Byte) = b &&& (0xF0 : Byte) ∧ a &&& (0x0F : Byte) = b &&& (0x0F : Byte) := by
  refine ⟨fun h => h ▸ ⟨rfl, rfl⟩, fun ⟨hhigh, hlow⟩ => ?_⟩
  rw [← nibbles_or a, hhigh, hlow, nibbles_or]

/-- The byte Decode6 puts together from two expander bytes, by its nibbles. -/
theorem joinNibbles_eq_iff (v a b : Byte) : (a &&& (0xF0 : Byte)) ||| (b >>> 4) = v ↔
    v &&& (0xF0 : Byte) = a &&& (0xF0 : Byte) ∧ (v <<< 4) &&& (0xF0 : Byte) = b &&& (0xF0 : Byte) := by
  constructor
  · rintro rfl
    constructor
    · ext i hi
      interval_cases i <;> simp
    · ext i hi
      interval_cases i <;> simp
  · rintro ⟨hhigh, hlow⟩
    have hshift (c : Byte) : (c &&& (0xF0 : Byte)) >>> 4 = c >>> 4 := by
      ext i hi
      interval_cases i <;> simp
    have hv : (v <<< 4) >>> 4 = v &&& (0x0F : Byte) := by
      ext i hi
      interval_cases i <;> simp
    rw [← hshift b, ← hlow, hshift, hv, ← hhigh, nibbles_or]

/-! The control bits k of R232, in the low nibble. -/

theorem toNat_ctrlBits (bl rs : Bool) : (ctrlBits bl rs).toNat = 8 * bl.toNat + rs.toNat := by
  cases bl <;> cases rs <;> rfl

theorem getElem_ctrlBits (bl rs : Bool) (i : Nat) (hi : i < 8) :
    (ctrlBits bl rs)[i] = ((decide (i = 0) && rs) || (decide (i = 3) && bl)) := by
  decide +revert

/-- A low nibble is control bits exactly when its EN and RW are 0 (R112). -/
theorem ctrlBits_eq_iff (bl rs : Bool) (b : Byte) : ctrlBits bl rs = b &&& (0x0F : Byte) ↔
    b.getLsbD 2 = false ∧ b.getLsbD 1 = false ∧ b.getLsbD 0 = rs ∧ b.getLsbD 3 = bl := by
  constructor
  · intro h
    have hbit (i : Nat) (hi : i < 8) : (b &&& (0x0F : Byte))[i] = (ctrlBits bl rs)[i] := by rw [h]
    refine ⟨?_, ?_, ?_, ?_⟩
    · simpa [getElem_ctrlBits] using hbit 2
    · simpa [getElem_ctrlBits] using hbit 1
    · simpa [getElem_ctrlBits] using hbit 0
    · simpa [getElem_ctrlBits] using hbit 3
  · rintro ⟨h2, h1, rfl, rfl⟩
    ext i hi
    interval_cases i <;> simp_all [getElem_ctrlBits]

/-! One expander byte: a nibble of data over the control bits. -/

theorem ctrlBits_and_F0 (bl rs : Bool) : ctrlBits bl rs &&& (0xF0 : Byte) = 0 := by
  cases bl <;> cases rs <;> rfl

theorem ctrlBits_and_0F (bl rs : Bool) : ctrlBits bl rs &&& (0x0F : Byte) = ctrlBits bl rs := by
  cases bl <;> cases rs <;> rfl

/-- Data and control bits of an expander byte do not overlap. -/
theorem or_ctrlBits_eq_iff (v b : Byte) (bl rs : Bool) : (v &&& (0xF0 : Byte)) ||| ctrlBits bl rs = b ↔
    v &&& (0xF0 : Byte) = b &&& (0xF0 : Byte) ∧ ctrlBits bl rs = b &&& (0x0F : Byte) := by
  have hmask : (0xF0 : Byte) &&& 0x0F = 0 := rfl
  rw [eq_iff_nibbles, BitVec.and_or_distrib_right, BitVec.and_or_distrib_right, ctrlBits_and_F0, ctrlBits_and_0F,
    BitVec.and_assoc, BitVec.and_assoc, BitVec.and_self, hmask]
  simp

theorem toNat_or_ctrlBits {h : Byte} {n : Nat} (hh : h.toNat = 16 * n) (bl rs : Bool) :
    (h ||| ctrlBits bl rs).toNat = 16 * n + 8 * bl.toNat + rs.toNat := by
  have hlow : 8 * bl.toNat + rs.toNat < 2 ^ 4 := by
    cases bl <;> cases rs <;> decide
  rw [BitVec.toNat_or, hh, toNat_ctrlBits, ← Nat.two_pow_add_eq_or_of_lt hlow, Nat.add_assoc]

/-! Decode6 and emit8. -/

theorem emit8_eq_iff (b0 b1 b2 b3 b4 b5 v : Byte) (rs bl : Bool) : emit8 bl v rs = [b0, b1, b2, b3, b4, b5] ↔
    (v &&& (0xF0 : Byte)) ||| ctrlBits bl rs = b0 ∧ ((v <<< 4) &&& (0xF0 : Byte)) ||| ctrlBits bl rs = b3 ∧
      b1 = b0 ||| 0x04 ∧ b2 = b0 ∧ b4 = b3 ||| 0x04 ∧ b5 = b3 := by
  simp only [emit8, emit4, List.cons_append, List.nil_append, List.cons.injEq, and_true]
  constructor <;> (rintro ⟨rfl, rfl, rfl, rfl, rfl, rfl⟩; simp)

theorem decode6_eq_some_iff (b0 b1 b2 b3 b4 b5 v : Byte) (rs bl : Bool) :
    decode6 b0 b1 b2 b3 b4 b5 = some (v, rs, bl) ↔
      (b1 = b0 ||| 0x04 ∧ b2 = b0 ∧ b4 = b3 ||| 0x04 ∧ b5 = b3) ∧
        (b0.getLsbD 2 = false ∧ b0.getLsbD 1 = false ∧ b0 &&& (0x0F : Byte) = b3 &&& (0x0F : Byte)) ∧
          (b0 &&& (0xF0 : Byte)) ||| (b3 >>> 4) = v ∧ b0.getLsbD 0 = rs ∧ b0.getLsbD 3 = bl := by
  unfold decode6
  split_ifs with htriples hctrl
  · refine iff_of_false nofun fun ⟨_, ⟨h2, h1, hlow⟩, _⟩ => ?_
    simp_all
  · simp_all
  · exact iff_of_false nofun fun h => htriples h.1

/-- Decode6 answers exactly on the six bytes emit8 gives (R232, R236). -/
theorem decode6_iff_emit8 (b0 b1 b2 b3 b4 b5 v : Byte) (rs bl : Bool) :
    decode6 b0 b1 b2 b3 b4 b5 = some (v, rs, bl) ↔ emit8 bl v rs = [b0, b1, b2, b3, b4, b5] := by
  rw [decode6_eq_some_iff, emit8_eq_iff, or_ctrlBits_eq_iff, or_ctrlBits_eq_iff, joinNibbles_eq_iff]
  constructor
  · rintro ⟨htriples, ⟨h2, h1, hlow⟩, ⟨hhigh3, hhigh0⟩, hrs, hbl⟩
    have hctrl := (ctrlBits_eq_iff bl rs b0).mpr ⟨h2, h1, hrs, hbl⟩
    exact ⟨⟨hhigh3, hctrl⟩, ⟨hhigh0, hctrl.trans hlow⟩, htriples⟩
  · rintro ⟨⟨hhigh3, hctrl⟩, ⟨hhigh0, hctrl3⟩, htriples⟩
    obtain ⟨h2, h1, hrs, hbl⟩ := (ctrlBits_eq_iff bl rs b0).mp hctrl
    exact ⟨htriples, ⟨h2, h1, hctrl.symm.trans hctrl3⟩, ⟨hhigh3, hhigh0⟩, hrs, hbl⟩

/-- Settles O26: `decode6_iff_emit8`, with the two data bytes as the numbers their nibbles make. -/
theorem nibbleReversibility : Obligations.NibbleReversibility := by
  exact ⟨fun v rs bl => ⟨(v &&& (0xF0 : Byte)) ||| ctrlBits bl rs, ((v <<< 4) &&& (0xF0 : Byte)) ||| ctrlBits bl rs,
    rfl, toNat_or_ctrlBits (toNat_and_F0 v) bl rs, toNat_or_ctrlBits (toNat_shiftLeft_and_F0 v) bl rs,
    (decode6_iff_emit8 ..).mpr rfl⟩, fun b0 b1 b2 b3 b4 b5 v rs bl => (decode6_iff_emit8 ..).mp⟩

end Sys2Proof.Machine
end

section
/-! What the payload builders leave in TXBUF (O27 to O30): Glyph, a loaded payload read back byte by byte, and where the
bytes of a character stand in the payloads of LcdSnapshot and OledRow. -/

namespace Sys2Proof.Machine

/-! Glyph (R238). -/

theorem glyph_inside {ch : Byte} (hfirst : 0x20 ≤ ch.toNat) (hlast : ch.toNat ≤ 0x7E) :
    glyph ch = ch.toNat - 0x20 :=
  if_pos ⟨hfirst, hlast⟩

theorem glyph_outside {ch : Byte} (h : ch.toNat < 0x20 ∨ 0x7E < ch.toNat) : glyph ch = 0x0E :=
  if_neg fun ⟨hfirst, hlast⟩ => by
    simp only [Config.glyphFirst, Config.glyphLast] at hfirst hlast
    omega

/-- Settles O27, by the two cases of Glyph. -/
theorem glyphTotality : Obligations.GlyphTotality := by
  refine ⟨fun ch => ?_, fun ch => glyph_inside, fun ch h => ⟨glyph_outside h, glyph_outside h⟩,
    fun a b ha ha' hb hb' h => BitVec.eq_of_toNat_eq ?_⟩
  · by_cases h : 0x20 ≤ ch.toNat ∧ ch.toNat ≤ 0x7E
    · rw [glyph_inside h.1 h.2]
      omega
    · rw [glyph_outside (by omega)]
      decide
  · rw [glyph_inside ha ha', glyph_inside hb hb'] at h
    omega

/-! TXBUF after a builder (R77, R248). -/

theorem State.txAt_loadTx_inside (s : State) {bs : List Byte} {i : Nat} (h : i < bs.length) :
    (s.loadTx bs).txAt i = bs[i] :=
  Memory.read_fill_inside _ _ _ _ h

theorem State.getElem?_eq_txAt_loadTx (s : State) {bs : List Byte} {i : Nat} (h : i < bs.length) :
    bs[i]? = some ((s.loadTx bs).txAt i) := by
  rw [s.txAt_loadTx_inside h, List.getElem?_eq_getElem h]

theorem State.txAt_loadTx_outside (s : State) {bs : List Byte} {i : Nat} (h : bs.length ≤ i) :
    (s.loadTx bs).txAt i = s.txAt i :=
  Memory.read_fill_outside _ _ _ _ h

theorem State.map_txAt_loadTx (s : State) (bs : List Byte) : (List.range bs.length).map (s.loadTx bs).txAt = bs := by
  refine List.ext_getElem (by simp) fun i _ h => ?_
  simp [s.txAt_loadTx_inside h]

/-- Settles O30. -/
theorem preambleBytes : Obligations.PreambleBytes :=
  fun s => ⟨rfl, s.map_txAt_loadTx (preamblePayload s.bl),
    fun _ => s.txAt_loadTx_outside (bs := preamblePayload s.bl), preamblePayload_length s.bl⟩

/-! Blocks of one length side by side: block c stands at k c. -/

theorem mul_add_lt_mul {k n c i : Nat} (hc : c < n) (hi : i < k) : k * c + i < k * n :=
  calc k * c + i < k * c + k := Nat.add_lt_add_left hi _
    _ = k * (c + 1) := (Nat.mul_succ k c).symm
    _ ≤ k * n := Nat.mul_le_mul_left k hc

theorem getElem?_flatMap_block {f : Nat → List Byte} {k n c i : Nat} (hlen : ∀ c, (f c).length = k) (hc : c < n)
    (hi : i < k) : ((List.range n).flatMap f)[k * c + i]? = (f c)[i]? := by
  induction n with
  | zero => exact absurd hc (Nat.not_lt_zero c)
  | succ n ih =>
    have hbefore : ((List.range n).flatMap f).length = k * n := by
      simp [List.length_flatMap, hlen, Nat.mul_comm]
    rw [List.range_succ, List.flatMap_append, List.flatMap_singleton]
    obtain h | rfl := Nat.lt_succ_iff_lt_or_eq.mp hc
    · rw [List.getElem?_append_left (by rw [hbefore]; exact mul_add_lt_mul h hi), ih h]
    · rw [List.getElem?_append_right (by omega), hbefore, Nat.add_sub_cancel_left]

/-! The layout of LcdSnapshot (R233). -/

theorem lcdRow_command (p : Params) (bl : Bool) (text : Memory) (r : Nat) {i : Nat} (hi : i < 6) :
    (lcdRow p bl text r)[i]? = (emit8 bl (lcdRowCmd p r) false)[i]? :=
  List.getElem?_append_left (by rwa [emit8_length])

theorem lcdRow_character (p : Params) (bl : Bool) (text : Memory) (r : Nat) {c i : Nat} (hc : c < 16) (hi : i < 6) :
    (lcdRow p bl text r)[6 + 6 * c + i]? = (emit8 bl (Memory.read textBg text (cellIdx r c)) true)[i]? := by
  rw [lcdRow, List.getElem?_append_right (by rw [emit8_length]; omega), emit8_length, Nat.add_assoc,
    Nat.add_sub_cancel_left]
  exact getElem?_flatMap_block (fun c => emit8_length ..) hc hi

theorem State.lcdRow_zero_eq_txAt (s : State) {i : Nat} (h : i < 102) :
    (lcdRow s.params s.bl s.text 0)[i]? = some (s.lcdSnapshot.txAt i) := by
  have hrow : (lcdPayload s.params s.bl s.text)[i]? = (lcdRow s.params s.bl s.text 0)[i]? :=
    List.getElem?_append_left (by rwa [lcdRow_length])
  rw [← hrow]
  exact s.getElem?_eq_txAt_loadTx (by rw [lcdPayload_length, lcdLen]; omega)

theorem State.lcdRow_one_eq_txAt (s : State) {i : Nat} (h : i < 102) :
    (lcdRow s.params s.bl s.text 1)[i]? = some (s.lcdSnapshot.txAt (102 + i)) := by
  have hrow : (lcdPayload s.params s.bl s.text)[102 + i]? = (lcdRow s.params s.bl s.text 1)[i]? := by
    rw [lcdPayload, List.getElem?_append_right (by rw [lcdRow_length]; omega), lcdRow_length, Nat.add_sub_cancel_left]
  rw [← hrow]
  exact s.getElem?_eq_txAt_loadTx (by rw [lcdPayload_length, lcdLen]; omega)

theorem State.lcdSnapshot_character_zero (s : State) {c i : Nat} (hc : c < 16) (hi : i < 6) :
    (emit8 s.bl (s.cell 0 c) true)[i]? = some (s.lcdSnapshot.txAt (6 + 6 * c + i)) :=
  (lcdRow_character s.params s.bl s.text 0 hc hi).symm.trans (s.lcdRow_zero_eq_txAt (by omega))

theorem State.lcdSnapshot_character_one (s : State) {c i : Nat} (hc : c < 16) (hi : i < 6) :
    (emit8 s.bl (s.cell 1 c) true)[i]? = some (s.lcdSnapshot.txAt (108 + 6 * c + i)) := by
  have hindex : 108 + 6 * c + i = 102 + (6 + 6 * c + i) := by omega
  rw [hindex]
  exact (lcdRow_character s.params s.bl s.text 1 hc hi).symm.trans (s.lcdRow_one_eq_txAt (by omega))

/-- Settles O28: each clause is a stretch of one of the two rows. -/
theorem lcdSnapshotLayout : Obligations.LcdSnapshotLayout := by
  intro s
  refine ⟨rfl, fun i hi => ?_, fun c i => s.lcdSnapshot_character_zero, fun i hi => ?_,
    fun c i => s.lcdSnapshot_character_one, fun c hc => ⟨?_, ?_⟩,
    fun i hi => s.txAt_loadTx_outside (by rwa [lcdPayload_length]), lcdPayload_length ..⟩
  · exact (lcdRow_command s.params s.bl s.text 0 hi).symm.trans (s.lcdRow_zero_eq_txAt (by omega))
  · exact (lcdRow_command s.params s.bl s.text 1 hi).symm.trans (s.lcdRow_one_eq_txAt (by omega))
  · rw [BitVec.or_assoc]
    exact (Option.some.inj (s.lcdSnapshot_character_zero hc (i := 0) (by decide))).symm
  · have hindex : 9 + 6 * c = 6 + 6 * c + 3 := by omega
    rw [hindex, BitVec.or_assoc]
    exact (Option.some.inj (s.lcdSnapshot_character_zero hc (i := 3) (by decide))).symm

/-! The layout of OledRow (R240). -/

theorem State.oledRow_txAt (s : State) (r : Nat) {i : Nat} (h : i < 256) :
    (s.oledRow r).txAt i = oledRowByte s.params s.text r i := by
  have hload := s.txAt_loadTx_inside (bs := oledRowPayload s.params s.text r) (i := i) (by rwa [oledRowPayload_length])
  rw [State.oledRow, hload]
  simp [oledRowPayload]

theorem State.oledRow_character (s : State) (r : Nat) {half c k : Nat} (hhalf : half < 2) (hc : c < 16)
    (hk : k < s.params.glyphW) (hw : s.params.glyphW ≤ 8) :
    (s.oledRow r).txAt (128 * half + (s.params.glyphW * c + k)) =
      Config.font (glyph (s.cell r c)) (half * s.params.glyphW + k) := by
  have hcol := mul_add_lt_mul hc hk
  have hdiv : (128 * half + (s.params.glyphW * c + k)) / 128 = half := by omega
  have hmod : (128 * half + (s.params.glyphW * c + k)) % 128 = s.params.glyphW * c + k := by omega
  have hchar : (s.params.glyphW * c + k) / s.params.glyphW = c := by
    rw [Nat.mul_add_div (by omega), Nat.div_eq_of_lt hk, Nat.add_zero]
  have hcolumn : (s.params.glyphW * c + k) % s.params.glyphW = k := by
    rw [Nat.mul_add_mod, Nat.mod_eq_of_lt hk]
  rw [s.oledRow_txAt r (by omega)]
  simp only [oledRowByte, hdiv, hmod, hchar, hcolumn]
  exact if_pos (by omega)

theorem State.oledRow_fill (s : State) (r : Nat) {half i : Nat} (hhalf : half < 2) (hi : 16 * s.params.glyphW ≤ i)
    (h : i < 128) : (s.oledRow r).txAt (128 * half + i) = 0 := by
  have hmod : (128 * half + i) % 128 = i := by omega
  rw [s.oledRow_txAt r (by omega)]
  simp only [oledRowByte, hmod]
  exact if_neg (Nat.not_lt.mpr hi)

/-- Settles O29: half 0 is the top of each glyph, half 1 the bottom, 128 bytes on. -/
theorem oledRowLayout : Obligations.OledRowLayout := by
  intro s r _ _ hw
  refine ⟨rfl, fun c k hc hk => ⟨?_, ?_⟩, fun i hi h => ⟨?_, ?_⟩,
    fun i hi => s.txAt_loadTx_outside (by rwa [oledRowPayload_length]), oledRowPayload_length ..⟩
  · simpa using s.oledRow_character r (half := 0) (by decide) hc hk hw
  · simpa [Nat.add_assoc] using s.oledRow_character r (half := 1) (by decide) hc hk hw
  · simpa using s.oledRow_fill r (half := 0) (by decide) hi h
  · exact s.oledRow_fill r (half := 1) (by decide) hi h

end Sys2Proof.Machine
end

section
/-! The link contract (spec/43_engine.md R270 to R278): LINK's steps in closed form (O32), and that every step of the
machine leaves a link that fits what SEQ waits for (O59). The link passes through five shapes, `quiet`, `starting`,
`addressing`, `inData`, `stopping` and `quiet` again: a link command leads from each to the next, and LINK's own steps
keep each. -/

namespace Sys2Proof.Machine

/-! LINK's steps (R273 to R278). -/

theorem State.linkTurn_address {s : State} {b : Byte} (hen : s.link.en = true) (hreq : s.link.addrReq = some b)
    (ack : Bool) : s.linkTurn (.address ack) = { s with
      wire := s.wire ++ [.addr b]
      link := { s.link with addrReq := none, addr := s.link.addr || ack, err := afUnless ack s.link.err } } := by
  simp only [State.linkTurn, State.linkAddress, hen, hreq]
  rfl

theorem State.linkTurn_address_disabled {s : State} (h : s.link.en = false ∨ s.link.addrReq = none) (ack : Bool) :
    s.linkTurn (.address ack) = s := by
  simp only [State.linkTurn, State.linkAddress]
  split
  · simp_all
  · rfl

theorem State.linkTurn_byte {s : State} {b : Byte} {q : List Byte} (hen : s.link.en = true) (hdata : s.link.data = true)
    (hq : s.link.q = b :: q) (ack : Bool) : s.linkTurn (.byte ack) = { s with
      wire := s.wire ++ [.data b]
      link := { s.link with q := q, sent := true, err := afUnless ack s.link.err } } := by
  simp only [State.linkTurn, State.linkByte, hen, hdata, hq]
  rfl

theorem State.linkTurn_byte_disabled {s : State} (h : s.link.en = false ∨ s.link.data = false ∨ s.link.q = [])
    (ack : Bool) : s.linkTurn (.byte ack) = s := by
  simp only [State.linkTurn, State.linkByte]
  split
  · simp_all
  · rfl

theorem State.linkTurn_start (s : State) : s.linkTurn .start =
    if s.link.en = true ∧ s.link.startReq = true then
      { s with wire := s.wire ++ [.start], link := { s.link with opn := true, startReq := false, sb := true } }
    else s := by
  simp only [State.linkTurn, State.linkStart, Bool.and_eq_true]
  rfl

theorem State.linkTurn_stop (s : State) : s.linkTurn .stop =
    if s.link.en = true ∧ s.link.stopBusy = true ∧ s.link.q = [] then
      { s with
        wire := s.wire ++ [.stop]
        link := { s.link with opn := false, data := false, sent := false, stopBusy := false } }
    else s := by
  simp only [State.linkTurn, State.linkStop, Bool.and_eq_true, decide_eq_true_eq, and_assoc]
  rfl

theorem State.linkTurn_error (s : State) (e : BitVec 4) : s.linkTurn (.error e) =
    if s.link.en = true ∧ e ≠ 0 then { s with link := { s.link with err := e } } else s := by
  simp only [State.linkTurn, State.linkError, Bool.and_eq_true, decide_eq_true_eq]

/-- Settles O32. -/
theorem linkMoves : Obligations.LinkMoves := by
  refine fun s => ⟨rfl, fun _ => rfl, rfl, s.linkTurn_start, fun _ => rfl, fun b hen hreq => ⟨?_, ?_⟩,
    fun ack h => State.linkTurn_address_disabled h ack, rfl, fun _ => rfl, fun b q hen hdata hq => ⟨?_, ?_⟩,
    fun ack h => State.linkTurn_byte_disabled h ack, rfl, s.linkTurn_stop, rfl, s.linkTurn_error⟩
  · rw [State.linkTurn_address hen hreq, Bool.or_true]
    rfl
  · rw [State.linkTurn_address hen hreq, Bool.or_false]
    rfl
  · exact State.linkTurn_byte hen hdata hq true
  · exact State.linkTurn_byte hen hdata hq false

/-- What one LINK step may do to the link, whatever the slave answers and whichever error shows; `err` with the error
bits there are is a step that is not enabled. -/
inductive Link.Moves (l : Link) : Link → Prop
  | err (e : BitVec 4) : l.Moves { l with err := e }
  | start (hreq : l.startReq = true) : l.Moves { l with opn := true, startReq := false, sb := true }
  | address {b : Byte} (hreq : l.addrReq = some b) (a : Bool) (e : BitVec 4) :
      l.Moves { l with addrReq := none, addr := a, err := e }
  | byte {b : Byte} {q : List Byte} (hdata : l.data = true) (hq : l.q = b :: q) (e : BitVec 4) :
      l.Moves { l with q := q, sent := true, err := e }
  | stop (hbusy : l.stopBusy = true) : l.Moves { l with opn := false, data := false, sent := false, stopBusy := false }

theorem Link.Moves.stays (l : Link) : l.Moves l := .err l.err

theorem State.linkTurn_moves (s : State) (m : LinkMove) : s.link.Moves (s.linkTurn m).link := by
  cases m with
  | start =>
    rw [s.linkTurn_start]
    split
    · rename_i h
      exact .start h.2
    · exact .stays _
  | address ack =>
    by_cases h : s.link.en = false ∨ s.link.addrReq = none
    · rw [State.linkTurn_address_disabled h]
      exact .stays _
    · obtain ⟨hen, hreq⟩ := not_or.mp h
      obtain ⟨b, hreq⟩ := Option.ne_none_iff_exists'.mp hreq
      rw [State.linkTurn_address (Bool.not_eq_false _ ▸ hen) hreq]
      exact .address hreq _ _
  | byte ack =>
    by_cases h : s.link.en = false ∨ s.link.data = false ∨ s.link.q = []
    · rw [State.linkTurn_byte_disabled h]
      exact .stays _
    · simp only [not_or, Bool.not_eq_false] at h
      obtain ⟨hen, hdata, hq⟩ := h
      obtain ⟨b, q, hq⟩ := List.exists_cons_of_ne_nil hq
      rw [State.linkTurn_byte hen hdata hq]
      exact .byte hdata hq _
  | stop =>
    rw [s.linkTurn_stop]
    split
    · rename_i h
      exact .stop h.2.1
    · exact .stays _
  | error e =>
    rw [s.linkTurn_error]
    split
    · exact .err e
    · exact .stays _

/-! The five shapes of the link, field by field. -/

theorem Link.quiet_iff (l : Link) : l.quiet = true ↔
    l.opn = false ∧ l.startReq = false ∧ l.sb = false ∧ l.addrReq = none ∧ l.addr = false ∧ l.data = false ∧ l.q = [] ∧
      l.stopBusy = false := by
  simp [Link.quiet, and_assoc]

theorem Link.starting_iff (l : Link) : l.starting = true ↔
    l.startReq = !l.opn ∧ l.sb = l.opn ∧ l.addrReq = none ∧ l.addr = false ∧ l.data = false ∧ l.q = [] ∧
      l.stopBusy = false := by
  simp [Link.starting, and_assoc]

theorem Link.addressing_iff (l : Link) : l.addressing = true ↔
    l.opn = true ∧ l.startReq = false ∧ l.sb = false ∧ (l.addr = true → l.addrReq = none) ∧ l.data = false ∧ l.q = [] ∧
      l.stopBusy = false := by
  simp only [Link.addressing, Bool.and_eq_true, Bool.not_eq_true', decide_eq_true_eq, and_assoc]

theorem Link.inData_iff (l : Link) : l.inData = true ↔
    l.opn = true ∧ l.startReq = false ∧ l.sb = false ∧ l.addrReq = none ∧ l.addr = false ∧ l.data = true ∧
      l.q.length ≤ 2 ∧ l.stopBusy = false := by
  simp [Link.inData, and_assoc]

theorem Link.stopping_iff (l : Link) : l.stopping = true ↔ l.quiet = true ∨
    (l.opn = true ∧ l.startReq = false ∧ l.sb = false ∧ l.addrReq = none ∧ l.addr = false ∧ l.data = true ∧ l.q = [] ∧
      l.stopBusy = true) := by
  simp [Link.stopping, and_assoc]

/-! A link command leads from one shape to the next (R271 to R277). -/

theorem Link.starting_of_quiet {l : Link} (h : l.quiet = true) :
    ({ l with startReq := true } : Link).starting = true := by
  obtain ⟨hopn, -, hsb, hreq, haddr, hdata, hq, hbusy⟩ := l.quiet_iff.mp h
  exact (Link.starting_iff _).mpr ⟨by rw [hopn]; rfl, hsb.trans hopn.symm, hreq, haddr, hdata, hq, hbusy⟩

theorem Link.addressing_of_starting {l : Link} (h : l.starting = true) (hsb : l.sb = true) (b : Byte) :
    ({ l with sb := false, addrReq := some b } : Link).addressing = true := by
  obtain ⟨hstart, hopn, -, haddr, hdata, hq, hbusy⟩ := l.starting_iff.mp h
  have hopn : l.opn = true := hopn.symm.trans hsb
  exact (Link.addressing_iff _).mpr
    ⟨hopn, by rw [hstart, hopn]; rfl, rfl, fun ha => absurd (haddr.symm.trans ha) nofun, hdata, hq, hbusy⟩

theorem Link.inData_of_addressing {l : Link} (h : l.addressing = true) (ha : l.addr = true) :
    ({ l with addr := false, data := true, sent := false } : Link).inData = true := by
  obtain ⟨hopn, hstart, hsb, hreq, -, hq, hbusy⟩ := l.addressing_iff.mp h
  exact (Link.inData_iff _).mpr ⟨hopn, hstart, hsb, hreq ha, rfl, rfl, by simp [hq], hbusy⟩

theorem Link.inData_of_txe {l : Link} (h : l.inData = true) (ht : l.txe = true) (b : Byte) :
    ({ l with q := l.q ++ [b] } : Link).inData = true := by
  obtain ⟨hopn, hstart, hsb, hreq, haddr, hdata, -, hbusy⟩ := l.inData_iff.mp h
  have hq : l.q.length ≤ 1 := by
    simp only [Link.txe, Bool.and_eq_true, decide_eq_true_eq] at ht
    exact ht.2
  exact (Link.inData_iff _).mpr ⟨hopn, hstart, hsb, hreq, haddr, hdata, by simpa using hq, hbusy⟩

theorem Link.stopping_of_inData {l : Link} (h : l.inData = true) (hq : l.q = []) :
    ({ l with stopBusy := true } : Link).stopping = true := by
  obtain ⟨hopn, hstart, hsb, hreq, haddr, hdata, -, -⟩ := l.inData_iff.mp h
  exact (Link.stopping_iff _).mpr (.inr ⟨hopn, hstart, hsb, hreq, haddr, hdata, hq, rfl⟩)

theorem Link.quiet_of_stopping {l : Link} (h : l.stopping = true) (hb : l.stopBusy = false) : l.quiet = true :=
  (l.stopping_iff.mp h).resolve_right fun ⟨_, _, _, _, _, _, _, hbusy⟩ => absurd (hb.symm.trans hbusy) nofun

theorem Link.btf_q {l : Link} (h : l.btf = true) : l.q = [] := by
  simp only [Link.btf, Bool.and_eq_true, decide_eq_true_eq] at h
  exact h.1.2

/-! LINK's own steps keep each shape: the shape leaves at most one step of LINK enabled beside an error. -/

theorem Link.Moves.quiet {l l' : Link} (hm : l.Moves l') (h : l.quiet = true) : l'.quiet = true := by
  rw [Link.quiet_iff] at h
  cases hm with
  | err e => exact (Link.quiet_iff _).mpr h
  | start | address | byte | stop => simp_all

theorem Link.Moves.starting {l l' : Link} (hm : l.Moves l') (h : l.starting = true) : l'.starting = true := by
  rw [Link.starting_iff] at h
  cases hm with
  | err e => exact (Link.starting_iff _).mpr h
  | start hreq =>
    obtain ⟨-, -, hrest⟩ := h
    exact (Link.starting_iff _).mpr ⟨rfl, rfl, hrest⟩
  | address | byte | stop => simp_all

theorem Link.Moves.addressing {l l' : Link} (hm : l.Moves l') (h : l.addressing = true) : l'.addressing = true := by
  rw [Link.addressing_iff] at h
  cases hm with
  | err e => exact (Link.addressing_iff _).mpr h
  | address hreq a e =>
    obtain ⟨hopn, hstart, hsb, -, hrest⟩ := h
    exact (Link.addressing_iff _).mpr ⟨hopn, hstart, hsb, fun _ => rfl, hrest⟩
  | start | byte | stop => simp_all

theorem Link.Moves.inData {l l' : Link} (hm : l.Moves l') (h : l.inData = true) : l'.inData = true := by
  rw [Link.inData_iff] at h
  cases hm with
  | err e => exact (Link.inData_iff _).mpr h
  | byte hdata hq e =>
    obtain ⟨hopn, hstart, hsb, hreq, haddr, -, hlen, hbusy⟩ := h
    rw [hq, List.length_cons] at hlen
    exact (Link.inData_iff _).mpr ⟨hopn, hstart, hsb, hreq, haddr, hdata, Nat.le_of_succ_le hlen, hbusy⟩
  | start | address | stop => simp_all

theorem Link.Moves.stopping {l l' : Link} (hm : l.Moves l') (h : l.stopping = true) : l'.stopping = true := by
  rw [Link.stopping_iff] at h ⊢
  obtain h | h := h
  · exact .inl (hm.quiet h)
  · cases hm with
    | err e => exact .inr h
    | stop hbusy =>
      obtain ⟨-, hstart, hsb, hreq, haddr, -, hq, -⟩ := h
      exact .inl ((Link.quiet_iff _).mpr ⟨rfl, hstart, hsb, hreq, haddr, rfl, hq, rfl⟩)
    | start | address | byte => simp_all

theorem Link.Moves.fitsWait {l l' : Link} (hm : l.Moves l') {w : WaitPoint} (h : l.fitsWait w = true) :
    l'.fitsWait w = true := by
  cases w with
  | idle => exact h
  | txSb => exact hm.starting h
  | txAddr => exact hm.addressing h
  | txTxe | txBtf => exact hm.inData h
  | txStop => exact hm.stopping h
  | initEntry | wedgeSettle | pulseDataLow | pulseClockLow | pulseClockHigh | pulseDataHigh | floatSettle | recoverEntry
  | bringDelay => exact hm.quiet h

/-! `linkFits` reads PHASE, the waiting point and the link alone. -/

/-- What the link may be at a place of SEQ. -/
def Link.fits (l : Link) (p : Phase) (w : WaitPoint) : Bool :=
  match p with
  | .off => l.quiet
  | .waitSb => l.starting
  | .waitAddr => l.addressing
  | .xfer | .reopenBtf => l.inData
  | .reopenStop => l.stopping
  | .recover | .init => l.fitsWait w

theorem State.linkFits_eq (s : State) : s.linkFits = s.link.fits s.phase s.waitAt := rfl

theorem State.linkFits_proc {s : State} (hp : s.phase = .init ∨ s.phase = .recover) :
    s.linkFits = s.link.fitsWait s.waitAt := by
  unfold State.linkFits
  obtain hp | hp := hp <;> rw [hp]

theorem Link.Moves.fits {l l' : Link} (hm : l.Moves l') {p : Phase} {w : WaitPoint} (h : l.fits p w = true) :
    l'.fits p w = true := by
  cases p with
  | off => exact hm.quiet h
  | waitSb => exact hm.starting h
  | waitAddr => exact hm.addressing h
  | xfer | reopenBtf => exact hm.inData h
  | reopenStop => exact hm.stopping h
  | recover | init => exact hm.fitsWait h

theorem State.linkTurn_fits {s : State} (h : s.linkFits = true) (m : LinkMove) : (s.linkTurn m).linkFits = true := by
  rw [s.linkTurn_frame]
  exact (s.linkTurn_moves m).fits (p := s.phase) (w := s.waitAt) h

/-! The procedure: each stretch, from a quiet link. -/

theorem State.loopStart_fits {s : State} (hq : s.link.quiet = true) : s.loopStart.linkFits = true := by
  obtain ⟨-, hlink, -, -⟩ := s.loopStart_keeps
  show s.loopStart.link.starting = true
  rw [hlink]
  exact Link.starting_of_quiet hq

theorem State.delay_fits {s t : State} (h : s.linkFits = true) (ht : t.linkFits = true) :
    (if s.delayOver then t else s).linkFits = true := by
  split
  · exact ht
  · exact h

theorem State.failInit_fits (s : State) (c : FailCause) : (s.failInit c).linkFits = true := rfl

section
variable {s : State} (hp : s.phase = .init ∨ s.phase = .recover)
include hp

/-- A record update that keeps PHASE fits when the new link fits the new waiting point. -/
theorem State.linkFits_of_proc {t : State} (hphase : t.phase = s.phase) (h : t.link.fitsWait t.waitAt = true) :
    t.linkFits = true := by
  rw [State.linkFits_proc (by rwa [hphase]), h]

theorem State.bringRun_fits (hq : s.link.quiet = true) : s.bringRun.linkFits = true := by
  have h := s.bringRun_bringsUp
  unfold State.BringsUp at h
  split at h
  · rw [h]
    exact State.linkFits_of_proc hp rfl (Link.starting_of_quiet hq)
  · rw [h]
    exact State.linkFits_of_proc hp rfl hq
  · rw [h]
    exact State.loopStart_fits hq

theorem State.probeNext_fits (hq : s.link.quiet = true) : s.probeNext.linkFits = true := by
  cases hr : s.probeRest with
  | nil =>
    rw [State.probeNext_nil hr]
    exact s.failInit_fits _
  | cons a rest =>
    rw [State.probeNext_cons hr]
    exact State.linkFits_of_proc hp rfl (Link.starting_of_quiet hq)

theorem State.afterWedge_fits (hq : s.link.quiet = true) : s.afterWedge.linkFits = true := by
  by_cases hd : s.devAddr = 0
  · rw [s.afterWedge_first hd]
    exact State.linkFits_of_proc hp rfl hq
  · rw [s.afterWedge_rerun hd]
    exact State.bringRun_fits hp rfl

theorem State.wedgeSample_fits (hq : s.link.quiet = true) : s.wedgeSample.linkFits = true := by
  unfold State.wedgeSample
  split
  · exact State.linkFits_of_proc hp rfl hq
  · exact State.afterWedge_fits hp hq

theorem State.wedgeRecheck_fits (hq : s.link.quiet = true) : s.wedgeRecheck.linkFits = true := by
  by_cases hw : s.wedged = true
  · by_cases hn : s.tries + 1 < s.params.recoverTries
    · rw [State.wedgeRecheck_again hw hn]
      exact State.linkFits_of_proc hp rfl hq
    · rw [State.wedgeRecheck_stuck hw (Nat.not_lt.mp hn)]
      exact State.afterWedge_fits (s := { s with tries := s.tries + 1, wedgeStuck := true }) hp hq
  · rw [State.wedgeRecheck_clear hw]
    exact State.afterWedge_fits (s := { s with tries := s.tries + 1 }) hp hq

theorem State.floatSample_fits : s.floatSample.linkFits = true := by
  unfold State.floatSample
  split
  · exact State.probeNext_fits hp rfl
  · exact s.failInit_fits _

theorem State.txDone_fits (hq : s.link.quiet = true) (r : WaitResult) : (s.txDone r).linkFits = true := by
  unfold State.txDone
  split
  · cases r with
    | ok =>
      dsimp only
      split
      · exact s.failInit_fits _
      · rename_i ha
        rw [s.classify_eq ha]
        exact State.bringRun_fits hp hq
    | err => exact State.probeNext_fits hp hq
    | timeout => exact State.failInit_fits _ _
  · cases r with
    | ok => exact State.bringRun_fits hp hq
    | err | timeout => exact State.loopStart_fits hq

/-- A bounded wait holds, goes on, or ends its transfer after an abort, which clears the link (R189, R190). -/
theorem State.txWait_fits {c : Bool} {go : State → State} (h : s.linkFits = true)
    (hgo : c = true → (go s).linkFits = true) : (s.txWait c go).linkFits = true := by
  have habort (r : WaitResult) : (s.abortTx.txDone r).linkFits = true := State.txDone_fits (s := s.abortTx) hp rfl r
  unfold State.txWait
  split
  · exact h
  · exact hgo ((s.waitCheck_ok c).mp ‹_›)
  · rw [s.errAbort_eq]
    exact habort _
  · exact habort _

theorem State.txGotAddr_fits (hl : s.link.addressing = true) (ha : s.link.addr = true) :
    s.txGotAddr.linkFits = true := by
  have hdata := Link.inData_of_addressing hl ha
  by_cases hb : s.txBytes = []
  · rw [State.txGotAddr_nil hb]
    obtain ⟨-, -, -, -, -, hq, -⟩ := s.link.addressing_iff.mp hl
    exact State.linkFits_of_proc hp rfl (Link.stopping_of_inData hdata hq)
  · rw [State.txGotAddr_bytes hb]
    exact State.linkFits_of_proc hp rfl hdata

theorem State.txGotTxe_fits (hl : s.link.inData = true) (ht : s.link.txe = true) : s.txGotTxe.linkFits = true := by
  cases hb : s.txBytes with
  | nil =>
    simp only [State.txGotTxe, hb]
    exact State.linkFits_of_proc hp rfl hl
  | cons b bs =>
    rw [State.txGotTxe_cons hb]
    refine State.linkFits_of_proc hp rfl ?_
    dsimp only
    split <;> exact Link.inData_of_txe hl ht b

/-- A SEQ step inside a procedure, from each waiting point with the link that fits there. -/
theorem State.seqProc_fits (h : s.linkFits = true) : s.seqProc.linkFits = true := by
  have hl := h
  rw [State.linkFits_proc hp] at hl
  cases hw : s.waitAt <;> rw [hw] at hl
  case idle => cases hl
  case initEntry =>
    rw [State.seqProc_initEntry hw]
    exact State.linkFits_of_proc hp rfl rfl
  case wedgeSettle =>
    rw [State.seqProc_wedgeSettle hw]
    exact State.delay_fits h (State.wedgeSample_fits hp hl)
  case pulseDataLow =>
    rw [State.seqProc_pulseDataLow hw]
    exact State.delay_fits h (State.linkFits_of_proc hp rfl hl)
  case pulseClockLow =>
    rw [State.seqProc_pulseClockLow hw]
    exact State.delay_fits h (State.linkFits_of_proc hp rfl hl)
  case pulseClockHigh =>
    rw [State.seqProc_pulseClockHigh hw]
    exact State.delay_fits h (State.linkFits_of_proc hp rfl hl)
  case pulseDataHigh =>
    rw [State.seqProc_pulseDataHigh hw]
    exact State.delay_fits h (State.wedgeRecheck_fits hp hl)
  case floatSettle =>
    rw [State.seqProc_floatSettle hw]
    exact State.delay_fits h (State.floatSample_fits hp)
  case recoverEntry =>
    rw [State.seqProc_recoverEntry hw]
    exact State.bringRun_fits hp hl
  case bringDelay =>
    rw [State.seqProc_bringDelay hw]
    exact State.delay_fits h (State.bringRun_fits (s := { s with bstep := s.bstep + 1 }) hp hl)
  case txSb =>
    rw [State.seqProc_txSb hw]
    exact State.txWait_fits hp h fun hsb => State.linkFits_of_proc hp rfl (Link.addressing_of_starting hl hsb _)
  case txAddr =>
    rw [State.seqProc_txAddr hw]
    exact State.txWait_fits hp h fun ha => State.txGotAddr_fits hp hl ha
  case txTxe =>
    rw [State.seqProc_txTxe hw]
    exact State.txWait_fits hp h fun ht => State.txGotTxe_fits hp hl ht
  case txBtf =>
    rw [State.seqProc_txBtf hw]
    exact State.txWait_fits hp h fun hb =>
      State.linkFits_of_proc hp rfl (Link.stopping_of_inData hl (Link.btf_q hb))
  case txStop =>
    rw [State.seqProc_txStop hw]
    exact State.txWait_fits hp h fun hb =>
      State.txDone_fits hp (Link.quiet_of_stopping hl (by simpa using hb)) .ok

end

/-! The loop, HOST and the DMA pump. -/

/-- TC touches no link and stays in XFER, or goes on to the reopen (R288 to R292). -/
theorem State.onTc_place (s : State) :
    s.onTc.link = s.link ∧ (s.onTc.phase = s.phase ∨ s.onTc.phase = .reopenBtf) := by
  unfold State.onTc
  cases s
  split
  case h_5 => exact ⟨rfl, .inr rfl⟩
  all_goals exact ⟨rfl, .inl rfl⟩

theorem State.onTc_fits {s : State} (hp : s.phase = .xfer) (hl : s.link.inData = true) : s.onTc.linkFits = true := by
  obtain ⟨hlink, hphase⟩ := s.onTc_place
  rw [State.linkFits_eq, hlink]
  obtain hphase | hphase := hphase
  · rw [hphase, hp]
    exact hl
  · rw [hphase]
    exact hl

/-- Every handler leads to the link that fits the phase it enters, where its event is pending and enabled (R320). -/
theorem State.handle_fits {s : State} (htc : s.tcPend = true → s.phase = .xfer) (h : s.linkFits = true) {e : Event}
    (he : s.eventReady e = true) : (s.handle e).linkFits = true := by
  have hl : s.link.fits s.phase s.waitAt = true := h
  cases e <;> simp only [State.eventReady, Bool.and_eq_true, decide_eq_true_eq] at he
  case sb =>
    obtain ⟨⟨-, hp⟩, hsb⟩ := he
    rw [hp] at hl
    exact Link.addressing_of_starting hl hsb _
  case addr =>
    obtain ⟨⟨-, hp⟩, ha⟩ := he
    rw [hp] at hl
    exact Link.inData_of_addressing hl ha
  case tc =>
    rw [htc he] at hl
    exact State.onTc_fits (htc he) hl
  case btf =>
    obtain ⟨hp, hb⟩ := he
    rw [hp] at hl
    exact Link.stopping_of_inData hl (Link.btf_q hb)
  case stopDone =>
    obtain ⟨hp, hb⟩ := he
    rw [hp] at hl
    rw [State.handle, s.onStopDone_eq]
    exact Link.starting_of_quiet (Link.quiet_of_stopping hl (by simpa using hb))
  all_goals
    rw [State.handle, s.takeFault_eq]
    rfl

theorem State.seqTurn_fits {s : State} (hinv : Inv s) (h : s.linkFits = true) : s.seqTurn.linkFits = true := by
  obtain ht | ⟨hp, ht⟩ | ⟨-, e, he, ht⟩ := s.seqTurn_cases
  · rwa [ht]
  · rw [ht]
    exact State.seqProc_fits hp h
  · rw [ht]
    exact State.handle_fits (s := s.tookEvent e) hinv.completePhase h (by cases e <;> exact he)

/-- A byte goes out only while the link has room for it (R276, R280). -/
theorem State.dmaMove_fits {s : State} (hr : s.dmaReady = true) (h : s.linkFits = true) :
    s.dmaMove.linkFits = true := by
  simp only [State.dmaReady, Bool.and_eq_true, decide_eq_true_eq] at hr
  obtain ⟨⟨-, hp⟩, ht⟩ := hr
  have hl : s.link.fits s.phase s.waitAt = true := h
  show ({ s.link with q := s.link.q ++ [s.txAt s.chPtr.toNat] } : Link).fits s.phase s.waitAt = true
  rw [hp] at hl ⊢
  exact Link.inData_of_txe hl ht _

/-- INIT is the one command that moves SEQ; it leaves the link of OFF, or a cleared one. -/
theorem exec_fits {i : Instr} {s t : State} (h : s.linkFits = true) (hx : exec i s = .next t) : t.linkFits = true := by
  cases i
  case init =>
    obtain ⟨-, rfl⟩ | ⟨hp, rfl⟩ | ⟨-, rfl⟩ := execInit_cases hx
    · exact h
    · have hl : s.link.fits s.phase s.waitAt = true := h
      rw [hp] at hl
      exact hl
    · rw [s.teardown_eq]
      rfl
  case faultInject =>
    simp only [exec, execFaultInject] at hx
    split at hx <;> cases hx <;> exact h
  all_goals
    cases hx
    exact h

theorem hostTurn_fits {s t : State} (h : s.linkFits = true) (ht : hostTurn s = .next t) : t.linkFits = true := by
  obtain ⟨p, d, e, rfl⟩ | ⟨v, rest, i, -, -, hx⟩ | ⟨k, v, rest, -, -, rfl⟩ := hostTurn_cases ht
  · exact h
  · exact exec_fits (s := s.hostDone) h hx
  · exact h

/-- Settles O59, agent by agent. -/
theorem linkContractKept : Obligations.LinkContractKept := by
  intro s t hinv h hstep
  have hk : s.turnTaken.linkFits = true := by
    rw [s.turnTaken_frame]
    exact h
  obtain ⟨-, ht⟩ | ⟨-, rfl⟩ | ⟨-, ht⟩ | ⟨-, rfl⟩ | ⟨m, -, rfl⟩ | ⟨c, d, -, rfl⟩ | ⟨-, rfl⟩ := step_next hstep
  · exact hostTurn_fits hk ht
  · exact State.seqTurn_fits hinv.turnTaken hk
  · obtain ⟨hr, -, rfl⟩ | ⟨-, rfl⟩ := dmaTurn_next ht
    · exact State.dmaMove_fits hr hk
    · exact hk
  · rw [State.tickTurn_frame]
    exact hk
  · exact State.linkTurn_fits hk m
  · exact hk
  · rfl

end Sys2Proof.Machine
end

section
/-! The events of the loop (spec/43_engine.md R286 to R294, R300, R301): which event SEQ takes in each loop phase where
none that outranks the link's own conditions is pending; with it the handlers of those conditions (O36) and the stale
ones (O38). Then TC (O37) and LAST_EVT (O39). -/

namespace Sys2Proof.Machine

theorem State.seqTurn_loop {s : State} (h : s.phase.inLoop = true) : s.seqTurn = s.seqLoop := by
  cases hp : s.phase <;> rw [hp] at h
  case off | init | recover => cases h
  all_goals rw [State.seqTurn, hp]

theorem State.seqTurn_off {s : State} (h : s.phase = .off) : s.seqTurn = s := by
  unfold State.seqTurn
  rw [h]

theorem State.seqTurn_event {s : State} {e : Event} (hp : s.phase.inLoop = true) (he : s.nextEvent = some e) :
    s.seqTurn = (s.tookEvent e).handle e :=
  (State.seqTurn_loop hp).trans (State.seqLoop_some he)

theorem State.seqTurn_no_event {s : State} (hp : s.phase.inLoop = true) (he : s.nextEvent = none) : s.seqTurn = s :=
  (State.seqTurn_loop hp).trans (State.seqLoop_none he)

theorem State.eventReady_err_eq_false {s : State} (h : s.errEn = true → s.link.err = 0) :
    s.eventReady .err = false := by
  simpa [State.eventReady] using h

/-! Which event SEQ takes where nothing urgent is pending (R320, R327): the one its phase awaits, or none. -/

section
variable {s : State} (hu : s.noUrgent)
include hu

theorem State.noUrgent.nextEvent : s.nextEvent = [Event.stopDone, .btf, .addr, .sb].find? s.eventReady := by
  obtain ⟨hinj, htc, hto, herr⟩ := hu
  have hinj : s.eventReady .inj = false := hinj
  have htc : s.eventReady .tc = false := htc
  have hto : s.eventReady .to = false := hto
  simp only [State.nextEvent, eventPriority, List.find?_cons, State.eventReady_err_eq_false herr, hinj, htc, hto]

theorem State.noUrgent.nextEvent_waitSb (hp : s.phase = .waitSb) :
    s.nextEvent = if s.evtEn = true ∧ s.link.sb = true then some .sb else none := by
  rw [hu.nextEvent]
  split <;> simp_all [State.eventReady]

theorem State.noUrgent.nextEvent_waitAddr (hp : s.phase = .waitAddr) :
    s.nextEvent = if s.evtEn = true ∧ s.link.addr = true then some .addr else none := by
  rw [hu.nextEvent]
  split <;> simp_all [State.eventReady]

theorem State.noUrgent.nextEvent_xfer (hp : s.phase = .xfer) : s.nextEvent = none := by
  rw [hu.nextEvent]
  simp [State.eventReady, hp]

theorem State.noUrgent.nextEvent_reopenBtf (hp : s.phase = .reopenBtf) :
    s.nextEvent = if s.link.btf = true then some .btf else none := by
  rw [hu.nextEvent]
  split <;> simp_all [State.eventReady]

theorem State.noUrgent.nextEvent_reopenStop (hp : s.phase = .reopenStop) :
    s.nextEvent = if s.link.stopBusy = false then some .stopDone else none := by
  rw [hu.nextEvent]
  split <;> simp_all [State.eventReady]

end

theorem Link.btf_iff (l : Link) : l.btf = true ↔ l.data = true ∧ l.q = [] ∧ l.sent = true := by
  simp [Link.btf, and_assoc]

/-- Settles O36: the phase's own event is taken, and its handler is the whole step. -/
theorem linkEventHandlers : Obligations.LinkEventHandlers := by
  refine ⟨fun s hu hp hevt hsb => ?_, fun s hu hp hevt ha => ?_, fun s hu hp hdata hq hsent => ?_,
    fun s hu hp hb => ?_⟩
  · have he : s.nextEvent = some .sb := by rw [hu.nextEvent_waitSb hp, if_pos ⟨hevt, hsb⟩]
    rw [State.seqTurn_event (by rw [hp]; rfl) he, ← addrByte_eq_append]
    rfl
  · have he : s.nextEvent = some .addr := by rw [hu.nextEvent_waitAddr hp, if_pos ⟨hevt, ha⟩]
    rw [State.seqTurn_event (by rw [hp]; rfl) he]
    rfl
  · have he : s.nextEvent = some .btf := by
      rw [hu.nextEvent_reopenBtf hp, if_pos (s.link.btf_iff.mpr ⟨hdata, hq, hsent⟩)]
    rw [State.seqTurn_event (by rw [hp]; rfl) he]
    rfl
  · have he : s.nextEvent = some .stopDone := by rw [hu.nextEvent_reopenStop hp, if_pos hb]
    rw [State.seqTurn_event (by rw [hp]; rfl) he, State.handle, State.onStopDone_eq]
    rfl

/-- Settles O38: in each loop phase the one condition it awaits is missing, so there is no event. -/
theorem staleConditionsIgnored : Obligations.StaleConditionsIgnored := by
  intro s hinit hrec hu hsb ha hb hstop
  cases hp : s.phase
  case off => exact State.seqTurn_off hp
  case init => exact absurd hp hinit
  case recover => exact absurd hp hrec
  all_goals refine State.seqTurn_no_event (by rw [hp]; rfl) ?_
  case waitSb =>
    rw [hu.nextEvent_waitSb hp, if_neg]
    rintro ⟨hevt, hshown⟩
    simpa [hevt, hshown] using hsb hp
  case waitAddr =>
    rw [hu.nextEvent_waitAddr hp, if_neg]
    rintro ⟨hevt, hshown⟩
    simpa [hevt, hshown] using ha hp
  case xfer => exact hu.nextEvent_xfer hp
  case reopenBtf =>
    rw [hu.nextEvent_reopenBtf hp, if_neg]
    rw [Link.btf_iff]
    rintro ⟨hdata, hq, hsent⟩
    simpa [hdata, hq, hsent] using hb hp
  case reopenStop =>
    rw [hu.nextEvent_reopenStop hp, if_neg]
    simp [hstop hp]

/-! TC (R288 to R292). -/

theorem State.nextEvent_tc {s : State} (htc : s.tcPend = true) (hinj : s.injPend = false)
    (herr : s.errEn = true → s.link.err = 0) : s.nextEvent = some .tc := by
  have hinj : s.eventReady .inj = false := hinj
  have htc : s.eventReady .tc = true := htc
  simp only [State.nextEvent, eventPriority, List.find?_cons, State.eventReady_err_eq_false herr, hinj, htc]

theorem State.onTc_lcd {s : State} (hm : s.mode = .lcd) : s.onTc = { s with
    txbuf := s.lcdSnapshot.txbuf, refreshCount := s.refreshCount + 1
    syncSeen := s.refreshTick.syncSeen, syncBusy := s.refreshTick.syncBusy
    chEn := true, chPtr := 0, chCnt := 204, tcPend := false
    wdtArmed := true, wdtCnt := 0, toPend := false } := by
  unfold State.onTc
  rw [hm]
  cases s
  rfl

theorem State.onTc_row0 {s : State} (hm : s.mode = .oled) (hc : s.oledCyc = .row0) : s.onTc = { s with
    txbuf := (s.oledRow 0).txbuf, oledCyc := .row1
    chEn := true, chPtr := 0, chCnt := 256, tcPend := false
    wdtArmed := true, wdtCnt := 0, toPend := false } := by
  unfold State.onTc
  rw [hm, hc]
  cases s
  rfl

theorem State.onTc_row1 {s : State} (hm : s.mode = .oled) (hc : s.oledCyc = .row1) : s.onTc = { s with
    txbuf := (s.oledRow 1).txbuf, oledCyc := .reopen
    chEn := true, chPtr := 0, chCnt := 256, tcPend := false
    wdtArmed := true, wdtCnt := 0, toPend := false } := by
  unfold State.onTc
  rw [hm, hc]
  cases s
  rfl

theorem State.onTc_reopen {s : State} (hm : s.mode = .oled) (hc : s.oledCyc = .reopen) : s.onTc = { s with
    chEn := false, tcPend := false
    wdtArmed := false, wdtCnt := 0, toPend := false, phase := .reopenBtf } := by
  have h : s.onTc = { s.tcCommon with phase := .reopenBtf } := by
    unfold State.onTc
    rw [hm, hc]
  rw [h]
  cases s
  rfl

/-- Settles O37: TC is taken before a TO, and its handler goes by MODE and OLED_CYC. -/
theorem transferComplete : Obligations.TransferComplete := by
  intro s hp htc hinj herr
  have hturn : s.seqTurn = (s.tookEvent .tc).onTc :=
    State.seqTurn_event (by rw [hp]; rfl) (State.nextEvent_tc htc hinj herr)
  rw [hturn]
  exact ⟨fun hm => State.onTc_lcd (s := s.tookEvent .tc) hm, fun hm hc => State.onTc_row0 (s := s.tookEvent .tc) hm hc,
    fun hm hc => State.onTc_row1 (s := s.tookEvent .tc) hm hc,
    fun hm hc => State.onTc_reopen (s := s.tookEvent .tc) hm hc⟩

/-! LAST_EVT (R301): the procedures and the other agents leave it alone. -/

theorem State.loopStart_lastEvt (s : State) : s.loopStart.lastEvt = s.lastEvt := by
  by_cases hm : s.mode = .oled
  · rw [s.loopStart_oled hm]
  · rw [s.loopStart_lcd hm]

theorem State.seqProc_lastEvt (s : State) : s.seqProc.lastEvt = s.lastEvt := by
  obtain h | ⟨-, -, -, h⟩ := s.seqProc_leads
  · exact h.keeps State.lastEvt (fun _ => rfl) State.loopStart_lastEvt
  · exact h.keeps State.lastEvt (fun _ => rfl) State.loopStart_lastEvt

theorem exec_lastEvt {i : Instr} {s t : State} (h : exec i s = .next t) : t.lastEvt = s.lastEvt := by
  cases i
  case init =>
    obtain ⟨-, rfl⟩ | ⟨-, rfl⟩ | ⟨-, rfl⟩ := execInit_cases h
    · rfl
    · rfl
    · rw [s.teardown_eq]
  case faultInject =>
    simp only [exec, execFaultInject] at h
    split at h <;> cases h <;> rfl
  all_goals
    cases h
    rfl

theorem hostTurn_lastEvt {s t : State} (h : hostTurn s = .next t) : t.lastEvt = s.lastEvt := by
  obtain ⟨p, d, e, rfl⟩ | ⟨v, rest, i, -, -, hx⟩ | ⟨k, v, rest, -, -, rfl⟩ := hostTurn_cases h
  · rfl
  · exact (exec_lastEvt hx :)
  · rfl

/-- No turn but SEQ's and the power-on reset's writes LAST_EVT. -/
theorem step_lastEvt {s t : State} (h : step s = .next t) (hseq : s.turn ≠ .seq) (hpow : s.turn ≠ .powerOn) :
    t.lastEvt = s.lastEvt := by
  obtain ⟨l, n, hk⟩ := s.exists_turnTaken
  have hturn : s.turnTaken.lastEvt = s.lastEvt := by rw [hk]
  rw [← hturn]
  obtain ⟨-, h⟩ | ⟨ht, -⟩ | ⟨-, h⟩ | ⟨-, rfl⟩ | ⟨m, -, rfl⟩ | ⟨c, d, -, rfl⟩ | ⟨ht, -⟩ := step_next h
  · exact hostTurn_lastEvt h
  · exact absurd ht hseq
  · obtain ⟨-, -, rfl⟩ | ⟨-, rfl⟩ := dmaTurn_next h <;> rfl
  · rw [State.tickTurn_frame]
  · rw [State.linkTurn_frame]
  · rfl
  · exact absurd ht hpow

/-- Settles O39. -/
theorem lastEvtRecorded : Obligations.LastEvtRecorded := by
  refine ⟨fun s e hoff hinit hrec he => ?_, fun s h => ?_, fun s t => step_lastEvt, fun e => by cases e <;> rfl⟩
  · rw [State.seqTurn_event (Phase.inLoop_of_ne hoff hinit hrec) he, State.handle_lastEvt]
    rfl
  · obtain hs | ⟨-, hs⟩ | ⟨hp, e, he, -⟩ := s.seqTurn_cases
    · rw [hs]
    · rw [hs, s.seqProc_lastEvt]
    · obtain ⟨hoff, hinit, hrec⟩ := Phase.inLoop_ne hp
      have hnone : s.nextEvent = none := by simpa [hoff, hinit, hrec] using h
      rw [State.nextEvent_none hnone e] at he
      cases he

end Sys2Proof.Machine
end

section
/-! The DMA pump with its channel (spec/43_engine.md R280, R282, R283; O33) and LoopStart (R285, R332; O34). -/

namespace Sys2Proof.Machine

/-- When the DMA step is enabled (R280), by the fields it reads. -/
theorem State.dmaReady_iff (s : State) : s.dmaReady = true ↔
    s.chEn = true ∧ s.chCnt ≠ 0 ∧ s.phase = .xfer ∧ s.link.data = true ∧ s.link.q.length ≤ 1 := by
  simp [State.dmaReady, Link.txe, and_assoc]

theorem dmaTurn_of_ready {s : State} (hr : s.dmaReady = true) (hptr : s.chPtr.toNat < Config.txbufSize) :
    dmaTurn s = .next s.dmaMove := by
  rw [dmaTurn, if_pos hr, if_pos hptr]

theorem dmaTurn_of_not_ready {s : State} (hr : ¬ s.dmaReady = true) : dmaTurn s = .next s := by
  rw [dmaTurn, if_neg hr]

/-- CH_CNT holds every payload length (R31, R283). -/
theorem State.dmaStart_chCnt_toNat (s : State) {n : Nat} (hn : n ≤ 256) : (s.dmaStart n).chCnt.toNat = n := by
  rw [State.dmaStart_chCnt, BitVec.toNat_ofNat]
  omega

/-- Settles O33. -/
theorem dmaChannel : Obligations.DmaChannel := by
  refine ⟨fun s hen hcnt hp hdata hq hptr => ?_, fun s h => ?_, fun _ => rfl,
    fun s n _ hn => ⟨s.dmaStart_chCnt_toNat hn, rfl⟩⟩
  · exact dmaTurn_of_ready (s.dmaReady_iff.mpr ⟨hen, hcnt, hp, hdata, hq⟩) hptr
  · refine dmaTurn_of_not_ready fun hr => ?_
    obtain ⟨hen, hcnt, hp, hdata, hq⟩ := s.dmaReady_iff.mp hr
    obtain h | h | h | h | h := h
    · exact absurd (h.symm.trans hen) nofun
    · exact hcnt h
    · exact h hp
    · exact absurd (h.symm.trans hdata) nofun
    · omega

/-- Settles O34: the whole state LoopStart leaves, by MODE. -/
theorem loopStartState : Obligations.LoopStartState := by
  intro s _
  by_cases hm : s.mode = .oled
  · have hlcd : s.mode ≠ .lcd := by simp [hm]
    rw [s.loopStart_oled hm]
    exact ⟨fun _ => ⟨rfl, rfl, rfl, rfl, rfl, rfl⟩, fun h => absurd h hlcd, rfl⟩
  · rw [s.loopStart_lcd hm, s.lcdSnapshot_eq]
    exact ⟨fun h => absurd h hm, fun _ => ⟨rfl, rfl, rfl, rfl, rfl, rfl⟩, rfl⟩

end Sys2Proof.Machine
end

section
/-! Which event SEQ takes (spec/60_exceptions.md R320, R326, R327; O35), taking a fault (R322 to R324, R329, R330; O40)
and the watchdog (R321; O43). -/

namespace Sys2Proof.Machine

/-! SEQ's choice: the pending event that stands first in R327's list. -/

/-- An event's place in R327's list. -/
def Event.rank : Event → Nat
  | .err => 0 | .inj => 1 | .tc => 2 | .to => 3 | .stopDone => 4 | .btf => 5 | .addr => 6 | .sb => 7

theorem Event.eventPriority_rank (e : Event) : ∃ h : e.rank < eventPriority.length, eventPriority[e.rank] = e := by
  cases e <;> exact ⟨by decide, rfl⟩

theorem rank_eventPriority : ∀ (i : Nat) (h : i < eventPriority.length), eventPriority[i].rank = i := by decide

theorem State.nextEvent_eq_some_iff {s : State} {e : Event} :
    s.nextEvent = some e ↔ s.eventReady e = true ∧ ∀ f : Event, f.rank < e.rank → ¬ s.eventReady f = true := by
  unfold State.nextEvent
  rw [List.find?_eq_some_iff_getElem]
  refine and_congr_right fun _ => ⟨?_, fun hnone => ?_⟩
  · rintro ⟨i, hi, rfl, hbelow⟩ f hf
    obtain ⟨hlen, hat⟩ := f.eventPriority_rank
    rw [rank_eventPriority] at hf
    simpa [hat] using hbelow f.rank hf
  · obtain ⟨hlen, hat⟩ := e.eventPriority_rank
    refine ⟨e.rank, hlen, hat, fun j hj => ?_⟩
    have hrank := rank_eventPriority j (hj.trans hlen)
    simpa using hnone eventPriority[j] (hrank.symm ▸ hj)

theorem State.nextEvent_eq_none_iff {s : State} : s.nextEvent = none ↔ ∀ e : Event, ¬ s.eventReady e = true :=
  ⟨fun h e => by rw [State.nextEvent_none h e]; nofun, fun h => List.find?_eq_none.mpr fun e _ => h e⟩

/-- A fault's handler clears every source of an event (R327, R330). -/
theorem State.takeFault_nextEvent (s : State) (c : ErrCause) : (s.takeFault c).nextEvent = none := by
  rw [State.nextEvent_eq_none_iff, s.takeFault_eq]
  intro e
  cases e <;> simp [State.eventReady]

theorem State.handle_fault_nextEvent (s : State) {e : Event} (h : e = .err ∨ e = .inj ∨ e = .to) :
    (s.handle e).nextEvent = none := by
  obtain rfl | rfl | rfl := h <;> exact s.takeFault_nextEvent _

/-- Settles O35: what is pending is what `eventReady` tests, and the order is `eventPriority`'s. -/
theorem eventPriority_spec : Obligations.EventPriority := by
  intro s pending rank
  have hpending : ∀ e, pending e ↔ s.eventReady e = true := fun e => by
    cases e <;> simp [pending, State.eventReady, Link.btf_iff, and_assoc]
  have hrank : rank = Event.rank := rfl
  simp only [hpending, hrank]
  refine ⟨fun e => State.nextEvent_eq_some_iff, State.nextEvent_eq_none_iff, fun hoff hinit hrec => ?_,
    State.seqTurn_off⟩
  have hp := Phase.inLoop_of_ne hoff hinit hrec
  refine ⟨fun e he => State.seqTurn_event hp he, State.seqTurn_no_event hp, fun e he hf => ?_⟩
  rw [State.seqTurn_event hp he]
  exact (s.tookEvent e).handle_fault_nextEvent hf

/-! Taking a fault. -/

theorem State.nextEvent_err {s : State} (hen : s.errEn = true) (herr : s.link.err ≠ 0) : s.nextEvent = some .err := by
  have herr : s.eventReady .err = true := by simpa [State.eventReady, hen] using herr
  exact State.nextEvent_eq_some_iff.mpr ⟨herr, nofun⟩

theorem State.nextEvent_inj {s : State} (herr : s.errEn = true → s.link.err = 0) (hinj : s.injPend = true) :
    s.nextEvent = some .inj := by
  have hinj : s.eventReady .inj = true := hinj
  simp only [State.nextEvent, eventPriority, List.find?_cons, State.eventReady_err_eq_false herr, hinj]

theorem State.nextEvent_to {s : State} (herr : s.errEn = true → s.link.err = 0) (hinj : s.injPend = false)
    (htc : s.tcPend = false) (hto : s.toPend = true) : s.nextEvent = some .to := by
  have hinj : s.eventReady .inj = false := hinj
  have htc : s.eventReady .tc = false := htc
  have hto : s.eventReady .to = true := hto
  simp only [State.nextEvent, eventPriority, List.find?_cons, State.eventReady_err_eq_false herr, hinj, htc, hto]

/-- Settles O40: each of the three events is the one taken, and its handler is `takeFault` (R330). -/
theorem faultEntry : Obligations.FaultEntry := by
  intro s hoff hinit hrec entry
  have hp := Phase.inLoop_of_ne hoff hinit hrec
  have fault {e : Event} {c : ErrCause} (he : s.nextEvent = some e)
      (hc : (s.tookEvent e).handle e = (s.tookEvent e).takeFault c) : s.seqTurn = entry e c := by
    rw [State.seqTurn_event hp he, hc, State.takeFault_eq]
    rfl
  exact ⟨fun hen herr => fault (State.nextEvent_err hen herr) rfl,
    fun herr hinj => fault (State.nextEvent_inj herr hinj) rfl,
    fun herr hinj htc hto => fault (State.nextEvent_to herr hinj htc hto) rfl⟩

/-! The watchdog. -/

theorem State.tickTurn_disarmed {s : State} (h : s.wdtArmed = false) : s.tickTurn = { s with now := s.now + 1 } := by
  rw [State.tickTurn, State.wdtTick, if_neg (Bool.eq_false_iff.mp h)]

theorem State.tickTurn_counts {s : State} (ha : s.wdtArmed = true) (hn : s.wdtCnt + 1 ≠ s.params.tWdt) :
    s.tickTurn = { s with now := s.now + 1, wdtCnt := s.wdtCnt + 1 } := by
  rw [State.tickTurn, State.wdtTick, if_pos ha, if_neg hn]

theorem State.tickTurn_fires {s : State} (ha : s.wdtArmed = true) (hn : s.wdtCnt + 1 = s.params.tWdt) :
    s.tickTurn = { s with now := s.now + 1, wdtCnt := s.wdtCnt + 1, toPend := true, wdtArmed := false } := by
  rw [State.tickTurn, State.wdtTick, if_pos ha, if_pos hn]

theorem State.tickTurn_armed {s : State} (ha : s.wdtArmed = true) : s.tickTurn = { s with
    now := s.now + 1, wdtCnt := s.wdtCnt + 1
    toPend := s.toPend || decide (s.wdtCnt + 1 = s.params.tWdt)
    wdtArmed := decide (s.wdtCnt + 1 ≠ s.params.tWdt) } := by
  by_cases hn : s.wdtCnt + 1 = s.params.tWdt
  · rw [State.tickTurn_fires ha hn, decide_eq_true hn, decide_eq_false (not_not_intro hn), Bool.or_true]
  · rw [State.tickTurn_counts ha hn, decide_eq_false hn, decide_eq_true hn, Bool.or_false, ← ha]

theorem State.tickTurn_iterate_disarmed {s : State} (h : s.wdtArmed = false) (n : Nat) :
    State.tickTurn^[n] s = { s with now := s.now + n } := by
  induction n with
  | zero => rfl
  | succ n ih =>
    rw [Function.iterate_succ_apply', ih]
    exact State.tickTurn_disarmed (s := { s with now := s.now + n }) h

theorem State.tickTurn_iterate_counts {s : State} (ha : s.wdtArmed = true) {n : Nat}
    (hn : s.wdtCnt + n < s.params.tWdt) :
    State.tickTurn^[n] s = { s with now := s.now + n, wdtCnt := s.wdtCnt + n } := by
  induction n with
  | zero => rfl
  | succ n ih =>
    rw [Function.iterate_succ_apply', ih (by omega)]
    exact State.tickTurn_counts (s := { s with now := s.now + n, wdtCnt := s.wdtCnt + n }) ha (Nat.ne_of_lt hn)

/-- The tick that fires is the last the watchdog takes part in: it is single shot (R321). -/
theorem State.tickTurn_iterate_fires {s : State} (ha : s.wdtArmed = true) {n : Nat} (hlt : s.wdtCnt < s.params.tWdt)
    (hn : s.params.tWdt ≤ s.wdtCnt + n) : State.tickTurn^[n] s =
      { s with now := s.now + n, wdtCnt := s.params.tWdt, toPend := true, wdtArmed := false } := by
  obtain ⟨m, hm⟩ : ∃ m, s.wdtCnt + m + 1 = s.params.tWdt := ⟨s.params.tWdt - s.wdtCnt - 1, by omega⟩
  obtain ⟨k, rfl⟩ : ∃ k, n = k + (m + 1) := ⟨n - (m + 1), by omega⟩
  have hfired : State.tickTurn^[m + 1] s =
      { s with now := s.now + m + 1, wdtCnt := s.params.tWdt, toPend := true, wdtArmed := false } := by
    rw [Function.iterate_succ_apply', State.tickTurn_iterate_counts ha (by omega), ← hm]
    exact State.tickTurn_fires (s := { s with now := s.now + m, wdtCnt := s.wdtCnt + m }) ha hm
  have hnow : s.now + (k + (m + 1)) = s.now + m + 1 + k := by omega
  rw [Function.iterate_add_apply, hfired, State.tickTurn_iterate_disarmed rfl, hnow]

/-- Settles O43. -/
theorem watchdogFires : Obligations.WatchdogFires := by
  refine ⟨fun _ => State.tickTurn_disarmed, fun _ => State.tickTurn_armed, fun s n ha hc _ hpos => ⟨fun hn => ?_,
    fun hn => ?_⟩, fun _ => rfl, fun _ _ => ⟨rfl, rfl, rfl⟩, rfl⟩
  · rw [State.tickTurn_iterate_counts ha (by omega), hc, Nat.zero_add]
  · exact State.tickTurn_iterate_fires ha (by omega) (by omega)

end Sys2Proof.Machine
end

section
/-! What survives a fault (spec/60_exceptions.md R331 to R334; O41). A SEQ step of the fault handler is a stretch of the
bring-up: it writes the bring-up's place and the link with W, or it starts the loop (R330). -/

namespace Sys2Proof.Machine

/-- The state beside the bring-up: the fields that its stretches write are blanked. -/
def State.besideBringUp (s : State) : State :=
  { s with
    istep := .wedge, bstep := 0, w0 := 0, waitAt := .idle, delayEnd := 0
    txAddr := 0, txBytes := [], txSpeed := .std, link := .reset, wire := [] }

/-- Where a stretch of the bring-up that begins in `u` may lead: to a state that differs from `u` in the bring-up's own
fields alone, or to the loop, started on such a state. -/
def State.BringUpLeads (u t : State) : Prop :=
  t.besideBringUp = u.besideBringUp ∨ ∃ v : State, v.besideBringUp = u.besideBringUp ∧ t = v.loopStart

theorem State.BringUpLeads.of_beside {u u' t : State} (hb : u'.besideBringUp = u.besideBringUp)
    (h : u'.BringUpLeads t) : u.BringUpLeads t := by
  unfold State.BringUpLeads
  rwa [← hb]

theorem State.bringRun_bringUpLeads (u : State) : u.BringUpLeads u.bringRun := by
  have h := u.bringRun_bringsUp
  unfold State.BringsUp at h
  split at h
  · exact .inl (by rw [h]; rfl)
  · exact .inl (by rw [h]; rfl)
  · exact .inr ⟨u, rfl, h⟩

theorem State.abortTx_besideBringUp (s : State) : s.abortTx.besideBringUp = s.besideBringUp := by
  rw [s.abortTx_eq]
  rfl

/-- A transfer of the bring-up has ended: the next step of the list, or on a failure the loop (R198). -/
theorem State.txDone_bringUpLeads {s : State} (hi : s.istep ≠ .probe) (r : WaitResult) :
    s.BringUpLeads (s.txDone r) := by
  unfold State.txDone
  rw [if_neg hi]
  cases r
  case ok => exact (State.bringRun_bringUpLeads _).of_beside rfl
  all_goals exact .inr ⟨s, rfl, rfl⟩

theorem State.txWait_bringUpLeads {s : State} {c : Bool} {go : State → State} (hi : s.istep ≠ .probe)
    (h : s.BringUpLeads (go s)) : s.BringUpLeads (s.txWait c go) := by
  have hi : s.abortTx.istep ≠ .probe := hi
  unfold State.txWait
  split
  · exact .inl rfl
  · exact h
  · rw [s.errAbort_eq]
    exact (State.txDone_bringUpLeads hi _).of_beside s.abortTx_besideBringUp
  · exact (State.txDone_bringUpLeads hi _).of_beside s.abortTx_besideBringUp

theorem State.txGotAddr_besideBringUp (s : State) : s.txGotAddr.besideBringUp = s.besideBringUp := by
  unfold State.txGotAddr
  cases s
  split <;> rfl

theorem State.txGotTxe_besideBringUp (s : State) : s.txGotTxe.besideBringUp = s.besideBringUp := by
  unfold State.txGotTxe
  split
  · rfl
  · dsimp only
    split <;> rfl

/-- The rest of the fault handler, stretch by stretch (R330): at its entry the configured link and the bring-up's first
step, then the bring-up. -/
theorem State.seqProc_bringUpLeads {s : State} (h : s.waitAt = .recoverEntry ∨ s.inBringUp = true) :
    s.BringUpLeads s.seqProc := by
  obtain hw | hb := h
  · rw [State.seqProc_recoverEntry hw]
    exact (State.bringRun_bringUpLeads _).of_beside rfl
  obtain ⟨hi, -⟩ := State.inBringUp_waitAt hb
  cases hw : s.waitAt
  case bringDelay =>
    rw [State.seqProc_bringDelay hw]
    split
    · exact (State.bringRun_bringUpLeads _).of_beside rfl
    · exact .inl rfl
  case txSb =>
    rw [State.seqProc_txSb hw]
    exact State.txWait_bringUpLeads hi (.inl rfl)
  case txAddr =>
    rw [State.seqProc_txAddr hw]
    exact State.txWait_bringUpLeads hi (.inl s.txGotAddr_besideBringUp)
  case txTxe =>
    rw [State.seqProc_txTxe hw]
    exact State.txWait_bringUpLeads hi (.inl s.txGotTxe_besideBringUp)
  case txBtf =>
    rw [State.seqProc_txBtf hw]
    exact State.txWait_bringUpLeads hi (.inl rfl)
  case txStop =>
    rw [State.seqProc_txStop hw]
    exact State.txWait_bringUpLeads hi (State.txDone_bringUpLeads hi _)
  all_goals simp [State.inBringUp, hw, WaitPoint.inTx] at hb

/-- What R334 lists as kept through a fault, beside the refresh count and SYNC's. -/
def State.survivors (s : State) : Memory × Bool × Memory × BitVec 7 × Bool × Bool × Bool × Bool × FailCause × Bool ×
    PadMode × Bool × PadMode × Bool :=
  (s.text, s.bl, s.stage, s.devAddr, s.busDead, s.wedgeSeen, s.wedgeStuck, s.initFailed, s.failCause, s.cmdErr,
    s.sclMode, s.sclLvl, s.sdaMode, s.sdaLvl)

theorem State.loopStart_survivors (s : State) : s.loopStart.survivors = s.survivors := by
  by_cases hm : s.mode = .oled
  · rw [s.loopStart_oled hm]; rfl
  · rw [s.loopStart_lcd hm]; rfl

/-- A view of the state that reads none of the bring-up's own fields, and that LoopStart keeps, the bring-up keeps. -/
theorem State.BringUpLeads.keeps {α : Type} {u t : State} (h : u.BringUpLeads t) (f : State → α)
    (hb : ∀ w : State, f w.besideBringUp = f w) (hl : ∀ w : State, f w.loopStart = f w) : f t = f u := by
  obtain h | ⟨v, h, rfl⟩ := h
  · rw [← hb t, h, hb]
  · rw [hl, ← hb v, h, hb]

/-- The two outcomes of a stretch of the bring-up: it stays in its PHASE with REFRESH_COUNT and SYNC as they were, or
the loop starts from a clean cycle state (R332). -/
theorem State.BringUpLeads.outcome {u t : State} (h : u.BringUpLeads t) :
    (t.phase = u.phase ∧ t.refreshPart = u.refreshPart) ∨
    (t.phase = .waitSb ∧ t.evtEn = true ∧ t.errEn = true ∧
      (u.mode = .oled → t.oledCyc = .row0 ∧ t.refreshCount = u.refreshCount) ∧
      (u.mode = .lcd → t.refreshCount = u.refreshCount + 1)) := by
  obtain h | ⟨v, h, rfl⟩ := h
  · exact .inl ⟨(congrArg State.phase h :), (congrArg State.refreshPart h :)⟩
  · have hmode : v.mode = u.mode := (congrArg State.mode h :)
    have hcount : v.refreshCount = u.refreshCount := (congrArg State.refreshCount h :)
    rw [← hmode, ← hcount]
    refine .inr ⟨rfl, rfl, rfl, fun hm => ?_, fun hm => ?_⟩
    · rw [v.loopStart_oled hm]
      exact ⟨rfl, rfl⟩
    · rw [v.loopStart_lcd (by simp [hm])]

/-- Settles O41: the step is a stretch of the bring-up. -/
theorem faultSurvivors : Obligations.FaultSurvivors := by
  intro s hinv hp t
  have hl : s.BringUpLeads t := by
    rw [show t = s.seqProc from State.seqTurn_proc (.inr hp)]
    exact State.seqProc_bringUpLeads (hinv.recoverAt hp)
  have hkept : t.survivors = s.survivors := hl.keeps _ (fun _ => rfl) State.loopStart_survivors
  have hrecord : t.faultRecord = s.faultRecord := hl.keeps _ (fun _ => rfl) State.loopStart_faultRecord
  have hout := hl.outcome
  simp only [State.survivors, State.faultRecord, State.refreshPart, Prod.mk.injEq, hp] at hkept hrecord hout
  simpa only [and_assoc] using And.intro hkept (And.intro hrecord hout)

end Sys2Proof.Machine
end

section
/-! Power-on reset (spec/70_reset_and_hazards.md R370, R371; O24, O25), an injected fault (R395; O15) and the reopen hang
(R392; O56). -/

namespace Sys2Proof.Machine

/-! Power-on reset. -/

/-- The state the machine starts in is one that a power-on reset leaves. -/
theorem State.reset_powerOn : State.reset.powerOn = State.reset := rfl

theorem State.powerOn_mode (u : State) : u.powerOn.mode = .none := u.powerOn.mode_eq_none.mpr rfl

/-- STATUS at reset depends on no parameter: with no device MODE is NONE. -/
theorem State.powerOn_statusWord (u : State) : u.powerOn.statusWord = 0 := by
  have hmode : State.reset.mode = .none := State.reset.powerOn_mode
  have hreset : u.powerOn.statusWord = State.reset.statusWord := by
    rw [State.statusWord, State.statusWord, u.powerOn_mode, hmode]
    rfl
  exact hreset.trans statusRegister.1

/-- PADS at reset: both pads pulled-up inputs with level 1, so both lines read what BUS presents (R36, R48). -/
theorem State.powerOn_padsWord (u : State) (c d : Bool) :
    ({ u.powerOn with busScl := c, busSda := d } : State).padsWord =
      0x00000044 ||| ((BitVec.ofBool c).setWidth 32 <<< 8) ||| ((BitVec.ofBool d).setWidth 32 <<< 9) := by
  show 0#22 ++ bit1 d ++ bit1 c ++ 0#1 ++ bit1 true ++ PadMode.puIn.code ++ 0#1 ++ bit1 true ++ PadMode.puIn.code = _
  revert c d
  decide

/-- At reset STAGE holds zeros (R45). -/
theorem State.powerOn_stageWord (u : State) (k : Nat) : u.powerOn.stageWord k = 0 := by
  show wordOfLanes stageBg stageBg stageBg stageBg = 0
  decide

/-- Settles O24: each field is `State.reset`'s, and the registers read those. -/
theorem resetValues : Obligations.ResetValues := by
  intro s hs
  obtain ⟨u, rfl⟩ : ∃ u : State, s = u.powerOn := hs.elim (fun h => ⟨_, h.trans State.reset_powerOn.symm⟩) id
  obtain ⟨hrefresh, hdev, hfaults, herr⟩ := counterRegisters.1
  exact ⟨rfl, fun _ _ _ _ => rfl, rfl, rfl, rfl, u.powerOn_mode, rfl, rfl, rfl, rfl, rfl, rfl, rfl, rfl, rfl, rfl, rfl,
    rfl, rfl, rfl, rfl, rfl, rfl, rfl, rfl, rfl, rfl, rfl, rfl, rfl, rfl, rfl, rfl, fun _ _ => rfl, rfl,
    u.powerOn_statusWord, hrefresh, hdev, fun k _ => u.powerOn_stageWord k, hfaults, herr, u.powerOn_padsWord,
    fun r _ k _ => reset_textWord r k⟩

/-- Settles O25. -/
theorem powerOnReset : Obligations.PowerOnReset := by
  intro s ht
  refine ⟨_, step_of_turn ht, ?_⟩
  obtain ⟨l, n, hk⟩ := s.exists_turnTaken
  rw [hk]
  rfl

/-! An injected fault. -/

/-- DMA, TICK, LINK and BUS leave INJ_PEND and PHASE alone. -/
theorem step_injPend_phase {s t : State} (h : step s = .next t) (hseq : s.turn ≠ .seq) (hhost : s.turn ≠ .host)
    (hpow : s.turn ≠ .powerOn) : t.injPend = s.injPend ∧ t.phase = s.phase := by
  obtain ⟨l, n, hk⟩ := s.exists_turnTaken
  obtain ⟨ht, -⟩ | ⟨ht, -⟩ | ⟨-, h⟩ | ⟨-, rfl⟩ | ⟨m, -, rfl⟩ | ⟨c, d, -, rfl⟩ | ⟨ht, -⟩ := step_next h
  · exact absurd ht hhost
  · exact absurd ht hseq
  · obtain ⟨-, -, rfl⟩ | ⟨-, rfl⟩ := dmaTurn_next h
    · rw [hk]; exact ⟨rfl, rfl⟩
    · rw [hk]; exact ⟨rfl, rfl⟩
  · rw [State.tickTurn_frame, hk]; exact ⟨rfl, rfl⟩
  · rw [State.linkTurn_frame, hk]; exact ⟨rfl, rfl⟩
  · rw [hk]; exact ⟨rfl, rfl⟩
  · exact absurd ht hpow

/-- Settles O15: with INJ pending SEQ's next event is ERR or INJ, and both take the fault as `faultEntry` says, whatever
else is pending. -/
theorem injectTakenNext : Obligations.InjectTakenNext := by
  refine ⟨fun s hoff hinit hrec => ?_, fun s t => step_injPend_phase, fun s hoff hinit hrec hinj => ?_⟩
  · exact ⟨_, exec_faultInject_of_inLoop (Phase.inLoop_of_ne hoff hinit hrec), rfl, rfl, rfl⟩
  · obtain ⟨takesErr, takesInj, -⟩ := faultEntry s hoff hinit hrec
    by_cases herr : s.errEn = true ∧ s.link.err ≠ 0
    · obtain ⟨hen, hne⟩ := herr
      rw [takesErr hen hne]
      exact ⟨fun _ => ⟨rfl, rfl⟩, absurd ⟨hen, hne⟩, rfl, rfl, rfl, rfl, rfl, rfl⟩
    · rw [takesInj (by simpa using herr) hinj]
      exact ⟨fun h => absurd h herr, fun _ => ⟨rfl, rfl⟩, rfl, rfl, rfl, rfl, rfl, rfl⟩

/-! The reopen hang. -/

theorem State.hung.phase_reopen {s : State} (hs : s.hung) : s.phase = .reopenBtf ∨ s.phase = .reopenStop :=
  hs.1.imp And.left And.left

/-- The condition a hung SEQ waits for is not shown, and no other event is pending. -/
theorem State.hung.seqTurn_eq {s : State} (hs : s.hung) : s.seqTurn = s := by
  obtain ⟨⟨hp, hbtf⟩ | ⟨hp, hstop⟩, hu, -⟩ := hs
  · refine State.seqTurn_no_event (by rw [hp]; rfl) ?_
    rw [hu.nextEvent_reopenBtf hp, if_neg (mt s.link.btf_iff.mp hbtf)]
  · refine State.seqTurn_no_event (by rw [hp]; rfl) ?_
    rw [hu.nextEvent_reopenStop hp, if_neg (by simp [hstop])]

/-- The DMA pump moves bytes in XFER only (R280). -/
theorem State.hung.dmaTurn_eq {s : State} (hs : s.hung) : dmaTurn s = .next s := by
  refine dmaTurn_of_not_ready fun hr => ?_
  obtain ⟨-, -, hp, -⟩ := s.dmaReady_iff.mp hr
  simpa [hp] using hs.phase_reopen

/-- What O56 says of one step: the hang goes on, and nothing is counted. -/
def State.HangKept (s t : State) : Prop :=
  t.hung ∧ t.phase = s.phase ∧ t.refreshCount = s.refreshCount ∧ t.faultCount = s.faultCount

/-- HOST leaves the hang alone, unless it writes an INIT or a FAULT_INJECT. -/
theorem State.hung.hostTurn {s t : State} (hs : s.hung) (h : hostTurn s = .next t)
    (hcmd : ∀ w rest, s.hostProg = .write .word 0x00 w :: rest →
      decode w ≠ .ok .init ∧ decode w ≠ .ok .faultInject) : s.HangKept t := by
  obtain ⟨p, d, e, rfl⟩ | ⟨w, rest, i, hp, hi, hx⟩ | ⟨k, v, rest, -, -, rfl⟩ := hostTurn_cases h
  · exact ⟨hs, rfl, rfl, rfl⟩
  · obtain ⟨hinit, hinject⟩ := hcmd w rest hp
    obtain ⟨t', hx', ht'⟩ := commandsKeepTransfers i s.hostDone (fun h => hinit (h ▸ hi)) fun h => hinject (h ▸ hi)
    cases hx.symm.trans hx'
    rw [ht']
    exact ⟨hs, rfl, rfl, rfl⟩
  · exact ⟨hs, rfl, rfl, rfl⟩

/-- Settles O56, agent by agent: SEQ has no event, DMA is not in XFER, the watchdog is not armed, BUS and the commands
left to HOST touch nothing that the hang reads. -/
theorem reopenHang : Obligations.ReopenHang := by
  intro s t hs h hpow hlink hcmd
  show s.HangKept t
  obtain ⟨l, n, hk⟩ := s.exists_turnTaken
  have hcases := step_next h
  rw [hk] at hcases
  have hs' : State.hung { s with sched := l, freeIdx := n } := hs
  obtain ⟨ht, h⟩ | ⟨-, rfl⟩ | ⟨-, h⟩ | ⟨-, rfl⟩ | ⟨m, ht, -⟩ | ⟨c, d, -, rfl⟩ | ⟨ht, -⟩ := hcases
  · exact hs'.hostTurn h (hcmd ht)
  · rw [hs'.seqTurn_eq]
    exact ⟨hs, rfl, rfl, rfl⟩
  · cases hs'.dmaTurn_eq.symm.trans h
    exact ⟨hs, rfl, rfl, rfl⟩
  · obtain ⟨-, -, hdisarmed⟩ := hs'
    rw [State.tickTurn_disarmed hdisarmed]
    exact ⟨hs, rfl, rfl, rfl⟩
  · exact absurd ht (hlink m)
  · exact ⟨hs, rfl, rfl, rfl⟩
  · exact absurd ht hpow

end Sys2Proof.Machine
end
